-- ==== Sys2Proof/Word.lean ====
section
/-! DEFINITION. Words, bytes and field elements (spec/00_scope.md R2, R10, R11). -/

namespace Sys2Proof

/-- A word: a 64-bit unsigned integer (R10). -/
abbrev Word := BitVec 64

/-- A byte: an 8-bit unsigned integer (R10). -/
abbrev Byte := BitVec 8

/-- The order of the Goldilocks field, 2^64 - 2^32 + 1 (R2, R6). -/
abbrev modulus : Nat := 0xFFFFFFFF00000001

/-- A canonical field element: an integer in [0, p) (R11). The type of a constant table's entries (R8). -/
abbrev Felt := Fin modulus

/-- The twelve lanes of a permutation state, lane 0 first (R2, 10_state.md R21). -/
abbrev Lanes := Vector Word 12

/-- The four limbs of a digest, limb0 first (45_digest.md R210). -/
abbrev Digest := Vector Word 4

end Sys2Proof
end

