-- ==== Sys2Proof/Config.lean ====
section
/-! DEFINITION. The configuration (spec/00_scope.md R6 to R9, spec/20_memory.md R57 to R60): what an implementation fixes
and the spec leaves open. Every definition of the machine takes it as a parameter (10_state.md R34); the machine behind
`Sys2Proof.core` is the one of the opaque constant `Config.installed`, of which nothing can be proved but what holds of
every configuration. -/

namespace Sys2Proof

/-- The tuple (RF, RP, RC, MDS, PRE, SPR) of R17. Every value of this type is a legal configuration: RF is even and at
least 2 by the way it is written (R7), the entries are canonical by their type (R8). The index functions are total; the
entries outside the table lengths of R58 and R60 are read by nothing. -/
structure Config where
  /-- `RF / 2 - 1`: one less than the number of rounds in each full-round half. -/
  Hm1 : Nat
  /-- The number of partial rounds. -/
  RP : Nat
  /-- The round constants, a flat sequence (layout R58). -/
  RC : Nat → Felt
  /-- The full diffusion matrix, row index (input lane) first (layout R59). -/
  MDS : Fin 12 → Fin 12 → Felt
  /-- The optimized matrix of the last round of the first half (layout R59). -/
  PRE : Fin 12 → Fin 12 → Felt
  /-- The sparse coefficients, 23 for each partial round (layout R60). -/
  SPR : Nat → Felt
deriving Inhabited

/-- `H = RF / 2`, the number of rounds in each full-round half (41_permutation.md). -/
abbrev Config.H (c : Config) : Nat := c.Hm1 + 1

/-- The number of full rounds (R7). -/
abbrev Config.RF (c : Config) : Nat := 2 * c.H

/-- The length of the table RC (R58). -/
abbrev Config.RCLen (c : Config) : Nat := 12 * c.RF + c.RP

/-- The length of the table SPR (R60). -/
abbrev Config.SPRLen (c : Config) : Nat := 23 * c.RP

/-- The configuration of the machine: OPEN in the spec (92_eei_decisions.md D9, D10), so a constant with no value. -/
opaque Config.installed : Config

/-- `NINST - 1`, the number of further instances beside the first: OPEN in the spec (D21), a constant with no value. -/
opaque Config.furtherInstances : Nat

end Sys2Proof
end

