-- ==== Sys2Proof/Syntax.lean ====
section
/-! DEFINITION. The eleven commands (spec/30_encoding.md R84), one constructor for each row of the opcode table. A command's
operands are its argument (R85) and its payload, of the unit kind its format fixes (R82). -/

namespace Sys2Proof

/-- One command with its operands. -/
inductive Instr where
  /-- PERM, format WF(12) (41_permutation.md R142). -/
  | perm (pay : List Word)
  /-- SPONGE n, format WV (42_sponge.md R166). -/
  | sponge (n : Nat) (pay : List Word)
  /-- HASHN, format WV (43_hash.md R181). -/
  | hashn (pay : List Word)
  /-- HASHP, format WV (43_hash.md R184). -/
  | hashp (pay : List Word)
  /-- COMP, format WF(8) (44_tree.md R192). -/
  | comp (pay : List Word)
  /-- LEAF, format WF(8) (44_tree.md R195). -/
  | leaf (pay : List Word)
  /-- ZEROS levels, format N: the payload is a word payload, of length 0 when well formed (44_tree.md R198). -/
  | zeros (levels : Nat) (pay : List Word)
  /-- ENCB, format WF(4) (45_digest.md R212). -/
  | encb (pay : List Word)
  /-- DECB, format BV (45_digest.md R215). -/
  | decb (pay : List Byte)
  /-- ENCH, format WF(4) (45_digest.md R218). -/
  | ench (pay : List Word)
  /-- DECH, format BV (45_digest.md R222). -/
  | dech (pay : List Byte)
deriving DecidableEq, Repr

end Sys2Proof
end

