-- ==== Sys2Proof/WellFormed.lean ====
section
/-! DEFINITION. Which terms of `Instr` are commands: those the 24-bit argument field can express (spec/30_encoding.md R85).
Every payload is expressible, the wrong lengths too (R80): they are legal requests that fault when executed. -/

namespace Sys2Proof

/-- The first value that the argument field of `ARGW = 24` bits cannot hold (R9, R85). -/
abbrev argLimit : Nat := 2 ^ 24

/-- The argument of a command that takes one fits its field. -/
def Instr.wf : Instr → Bool
  | .sponge n _ => decide (n < argLimit)
  | .zeros levels _ => decide (levels < argLimit)
  | .perm _ | .hashn _ | .hashp _ | .comp _ | .leaf _ | .encb _ | .decb _ | .ench _ | .dech _ => true

end Sys2Proof
end

