-- ==== Sys2Proof/Decode.lean ====
section
/-! DEFINITION. Requests, their decoding and the encoder (spec/30_encoding.md R80 to R87, R92). -/

namespace Sys2Proof

/-- `OPC = CMD[7:0]` (R81). -/
def opcOf (cmd : BitVec 32) : BitVec 8 := cmd.extractLsb' 0 8

/-- `ARG = CMD[31:8]`, unsigned (R81, R85). -/
def argOf (cmd : BitVec 32) : Nat := (cmd.extractLsb' 8 24).toNat

/-- `CMD = ARG ‖ OPC` (R81). -/
def cmdWord (arg : Nat) (opc : BitVec 8) : BitVec 32 := BitVec.ofNat 24 arg ++ opc

/-- The width of a payload unit, fixed by the opcode (R82): bytes for DECB and DECH, words for every other command. For an
undefined opcode the payload is ignored (R86); it is carried as words. -/
def unitWidth (cmd : BitVec 32) : Nat :=
  if opcOf cmd = 0x09#8 then 8 else if opcOf cmd = 0x0B#8 then 8 else 64

/-- A request: the command word and the whole payload (R80). "A model's request type carries words for word-format opcodes
and bytes for byte-format opcodes" (R86): the type of a unit follows the opcode, so a payload of the wrong kind is no term. -/
structure Request where
  cmd : BitVec 32
  pay : List (BitVec (unitWidth cmd))
deriving DecidableEq, Repr

/-- The payload of a word-format request (the width is 64 there, so no unit changes). -/
def Request.words (r : Request) : List Word := r.pay.map (BitVec.setWidth 64)

/-- The payload of a byte-format request (the width is 8 there, so no unit changes). -/
def Request.bytes (r : Request) : List Byte := r.pay.map (BitVec.setWidth 8)

/-- Why a request is no command (R86). -/
inductive Illegal where
  /-- `OPC` is 0x00 or one of 0x0C to 0xFF. -/
  | undefinedOpcode
  /-- `ARG` is not zero in a command that takes no argument. -/
  | nonzeroArg
deriving DecidableEq, Repr

/-- The check of a reserved argument field (R86). -/
def reservedArg (arg : Nat) (i : Instr) : Except Illegal Instr :=
  if arg = 0 then .ok i else .error .nonzeroArg

/-- Decoding, total on every request (R84, R86, R92): the opcode first, then a reserved argument (60_exceptions.md R251). -/
def decode (r : Request) : Except Illegal Instr :=
  match (opcOf r.cmd).toNat with
  | 0x01 => reservedArg (argOf r.cmd) (.perm r.words)
  | 0x02 => .ok (.sponge (argOf r.cmd) r.words)
  | 0x03 => reservedArg (argOf r.cmd) (.hashn r.words)
  | 0x04 => reservedArg (argOf r.cmd) (.hashp r.words)
  | 0x05 => reservedArg (argOf r.cmd) (.comp r.words)
  | 0x06 => reservedArg (argOf r.cmd) (.leaf r.words)
  | 0x07 => .ok (.zeros (argOf r.cmd) r.words)
  | 0x08 => reservedArg (argOf r.cmd) (.encb r.words)
  | 0x09 => reservedArg (argOf r.cmd) (.decb r.bytes)
  | 0x0A => reservedArg (argOf r.cmd) (.ench r.words)
  | 0x0B => reservedArg (argOf r.cmd) (.dech r.bytes)
  | _ => .error .undefinedOpcode

/-- The opcode of a command (R84). -/
def Instr.opcode : Instr → BitVec 8
  | .perm _ => 0x01
  | .sponge _ _ => 0x02
  | .hashn _ => 0x03
  | .hashp _ => 0x04
  | .comp _ => 0x05
  | .leaf _ => 0x06
  | .zeros _ _ => 0x07
  | .encb _ => 0x08
  | .decb _ => 0x09
  | .ench _ => 0x0A
  | .dech _ => 0x0B

/-- The argument field of a command: zero in the nine that take none (R84). -/
def Instr.arg : Instr → Nat
  | .sponge n _ => n
  | .zeros levels _ => levels
  | .perm _ | .hashn _ | .hashp _ | .comp _ | .leaf _ | .encb _ | .decb _ | .ench _ | .dech _ => 0

/-- A request from its command word and payload units. -/
def frameRequest {w : Nat} (cmd : BitVec 32) (pay : List (BitVec w)) : Request :=
  ⟨cmd, pay.map (BitVec.setWidth _)⟩

/-- The request that presents a command (R81, R82, R84). -/
def encode (i : Instr) : Request :=
  match i with
  | .perm pay => frameRequest (cmdWord 0 0x01) pay
  | .sponge n pay => frameRequest (cmdWord n 0x02) pay
  | .hashn pay => frameRequest (cmdWord 0 0x03) pay
  | .hashp pay => frameRequest (cmdWord 0 0x04) pay
  | .comp pay => frameRequest (cmdWord 0 0x05) pay
  | .leaf pay => frameRequest (cmdWord 0 0x06) pay
  | .zeros levels pay => frameRequest (cmdWord levels 0x07) pay
  | .encb pay => frameRequest (cmdWord 0 0x08) pay
  | .decb pay => frameRequest (cmdWord 0 0x09) pay
  | .ench pay => frameRequest (cmdWord 0 0x0A) pay
  | .dech pay => frameRequest (cmdWord 0 0x0B) pay

/-- How many zero units the payload of a table word has (log 4): the length the format fixes; for DECB and DECH the length
of one whole encoding; none where any number is legal or the payload is empty. -/
def tablePayloadLength (opc : BitVec 8) : Nat :=
  match opc.toNat with
  | 0x01 => 12
  | 0x05 | 0x06 => 8
  | 0x08 | 0x0A => 4
  | 0x09 => 32
  | 0x0B => 64
  | _ => 0

/-- The request whose command word is the low `nbits` bits of `w` and whose payload is of zero units. -/
def tableRequest (nbits w : Nat) : Request :=
  let cmd := BitVec.ofNat 32 (w % 2 ^ nbits)
  ⟨cmd, List.replicate (tablePayloadLength (opcOf cmd)) 0⟩

/-- What the decoder reads from a word of the opcode table. -/
def decodeTableWord (nbits w : Nat) : Option Instr := (decode (tableRequest nbits w)).toOption

end Sys2Proof
end

