-- ==== Sys2Proof/Machine/State.lean ====
section
/-! DEFINITION. The state of one instance (spec/10_state.md R20 to R33), the response it delivers (spec/30_encoding.md R83)
and the state after reset (spec/70_reset_and_hazards.md R280). -/

namespace Sys2Proof.Machine

/-- `PH`, the phase of the hidden sequencer (10_state.md R29). -/
inductive Phase where
  | idle | load | arkInit | full1 | partialRounds | full2 | absorb | squeeze | unload
deriving DecidableEq, Repr

/-- A response payload: words or bytes, as the command's row of R84 says. -/
inductive Payload where
  | words (l : List Word)
  | bytes (l : List Byte)
deriving DecidableEq, Repr

/-- A response: the 32-bit status word and the payload (R83). -/
structure Response where
  stat : BitVec 32
  out : Payload
deriving DecidableEq, Repr

/-- What the platform delivers to an instance between two commands (70_reset_and_hazards.md R285). -/
inductive HostEvent where
  /-- The host presents a request. -/
  | request (r : Request)
  /-- The platform asserts reset (R280), a signal and not a command. -/
  | reset
deriving DecidableEq, Repr

/-- The typed errors (60_exceptions.md R242). -/
inductive TypedError where
  | length | range | text
deriving DecidableEq, Repr

/-- The faults, that is precondition failures (60_exceptions.md R243). -/
inductive FaultCause where
  | illegal | width | count | levels
deriving DecidableEq, Repr

/-- The scratch registers: the lane file, its two companions and the hidden sequencer (10_state.md R21 to R25, R29). -/
structure Datapath where
  /-- The lane file (R21). -/
  S : Lanes
  /-- The pre-update lane 0 of SPARSE (R22). -/
  T0 : Word
  /-- The result buffer of a matrix multiplication (R23). -/
  N : Lanes
  /-- The phase. -/
  PH : Phase
  /-- The round index within the phase. -/
  RND : Nat
  /-- The index of the next payload unit to consume. -/
  IPOS : Nat
  /-- The number of response units produced so far. -/
  OCNT : Nat
  /-- The level index of ZEROS. -/
  LVL : Nat
deriving DecidableEq, Repr

/-- The state of one instance: the scratch registers, the two control registers, and the model's own host interface. -/
structure State where
  /-- The scratch registers. -/
  dp : Datapath
  /-- The fault latch, 1 bit (R26). -/
  FLT : Bool
  /-- The fault cause (R27). -/
  FCAUSE : BitVec 8
  /-- What the host will deliver, in order (log 2). -/
  inbox : List HostEvent
  /-- The response that the step just taken delivered (log 2). -/
  resp : Option Response
deriving DecidableEq, Repr

/-- No instruction stops this machine: a precondition failure is a next state (60_exceptions.md R247), and nothing else in
the spec halts a command. The type has no constructor, so no step answers a host-level fault. -/
inductive Fault
deriving DecidableEq, Repr

/-- The host-level refusals. -/
inductive Refusal where
  /-- Raised by an arm of `exec` for an instruction that has no meaning yet: safe. No arm raises it. -/
  | notModelled (mnemonic : String)
deriving DecidableEq, Repr

/-- The outcome of a command or of a step. -/
abbrev Result := Host.Outcome State Fault Refusal

/-- The scratch registers after reset. The spec gives PH = IDLE and leaves the others unspecified, read by no rule before
it is written (R33): DESIGN CHOICE zero (log 5). -/
def Datapath.reset : Datapath where
  S := #v[0, 0, 0, 0, 0, 0, 0, 0, 0, 0, 0, 0]
  T0 := 0
  N := #v[0, 0, 0, 0, 0, 0, 0, 0, 0, 0, 0, 0]
  PH := .idle
  RND := 0
  IPOS := 0
  OCNT := 0
  LVL := 0

/-- The machine right after reset (R280): nothing presented yet, nothing to deliver. -/
def State.reset : State where
  dp := .reset
  FLT := false
  FCAUSE := 0
  inbox := []
  resp := none

end Sys2Proof.Machine
end

