-- ==== Sys2Proof/Machine/Field.lean ====
section
/-! DEFINITION. Field arithmetic as mathematics (spec/40_field.md): exact results over the integers, reduced modulo p. -/

namespace Sys2Proof.Machine

/-- The word whose value is a natural number reduced modulo p: every primitive returns a normalised result (R111). -/
def ofResidue (n : Nat) : Word := BitVec.ofNat 64 (n % modulus)

/-- Construction from a 64-bit unsigned integer: reduced, not rejected (R112). -/
def fred (v : Word) : Word := ofResidue v.toNat

/-- Addition (R113). -/
def fadd (a b : Word) : Word := ofResidue (a.toNat + b.toNat)

/-- Multiplication (R114). -/
def fmul (a b : Word) : Word := ofResidue (a.toNat * b.toNat)

/-- The S-box x → x^7 (R115). -/
def fpow7 (a : Word) : Word := ofResidue (a.toNat ^ 7)

/-- The membership test: it never reduces (R118). -/
def isMember (v : Word) : Bool := decide (v.toNat < modulus)

/-- The value of a constant-table entry: one whole field element (20_memory.md R56). -/
def feltWord (x : Felt) : Word := BitVec.ofNat 64 x.val

/-- `Σ` over the twelve lanes: repeated `fadd` (00_scope.md R11). -/
def fsum (f : Fin 12 → Word) : Word := (List.finRange 12).foldl (fun acc i => fadd acc (f i)) 0

/-- The lane file whose lane i is `f i`: one `for all i` line, every right-hand side read before the line (00_scope.md R12). -/
def lanesOf (f : Fin 12 → Word) : Lanes := #v[f 0, f 1, f 2, f 3, f 4, f 5, f 6, f 7, f 8, f 9, f 10, f 11]

/-- A loop `for r = 0 .. n-1 in order`: the body of round r acts on what round r-1 left. -/
def loop {α : Type} : Nat → (Nat → α → α) → α → α
  | 0, _, a => a
  | n + 1, body, a => body n (loop n body a)

end Sys2Proof.Machine
end

