-- ==== Sys2Proof/Machine/Flags.lean ====
section
/-! DEFINITION. The only flag, the latch FLT with its cause (spec/10_state.md R26, R27), and the status word
(spec/30_encoding.md R83, R90). No command writes a flag as a side effect of arithmetic. -/

namespace Sys2Proof.Machine

/-- The code of a typed error (R90, 60_exceptions.md R242). -/
def TypedError.code : TypedError → BitVec 8
  | .length => 0x01
  | .range => 0x02
  | .text => 0x03

/-- The code of a fault (R90, 60_exceptions.md R243). -/
def FaultCause.code : FaultCause → BitVec 8
  | .illegal => 0x81
  | .width => 0x82
  | .count => 0x83
  | .levels => 0x84

/-- `OK` (R90). -/
def okCode : BitVec 8 := 0x00

/-- `FLT_HALTED` (R90, 60_exceptions.md R244). -/
def haltedCode : BitVec 8 := 0x8F

/-- The status word: `CODE` in bits [7:0], `PREV` in bits [15:8], the rest zero (R83). -/
def statusWord (prev code : BitVec 8) : BitVec 32 := 0#16 ++ prev ++ code

/-- The latch and its cause after `raise Fault(cause)` (R26, R27, 60_exceptions.md R247). -/
def State.latchFault (s : State) (cause : FaultCause) : State := { s with FLT := true, FCAUSE := cause.code }

end Sys2Proof.Machine
end

