-- ==== Sys2Proof/Machine/Ops.lean ====
section
/-! DEFINITION. How a command begins and ends (spec/00_scope.md R14): the halted refusal, `return OK`, `raise Error`,
`raise Fault`, and reset, the one way back from a fault. -/

namespace Sys2Proof.Machine

/-- The empty payload of a response that is not OK (30_encoding.md R83; that it is written as a word payload of length 0 is
the model's, log 12). -/
def emptyPayload : Payload := .words []

/-- The one response of a command, delivered when it ends (R83). -/
def State.respond (s : State) (stat : BitVec 32) (out : Payload) : State := { s with resp := some ⟨stat, out⟩ }

/-- The halted refusal: the status reports the fault that halted the block, and no state changes (60_exceptions.md R249). -/
def State.refuseHalted (s : State) : State := s.respond (statusWord s.FCAUSE haltedCode) emptyPayload

/-- The first check of every request: a halted block refuses it, whatever it is (60_exceptions.md R249, R251). -/
def accept (s : State) (run : State → Result) : Result := if s.FLT then .next s.refuseHalted else run s

/-- `return OK` of a command that leaves the scratch registers as `d`: between commands the sequencer is idle (10_state.md R29). -/
def returnOk (out : Payload) (d : Datapath) (s : State) : Result :=
  .next ({ s with dp := { d with PH := .idle } }.respond (statusWord 0 okCode) out)

/-- `return OK` of a command that touches no scratch register (10_state.md R25: ENCB, DECB, ENCH, DECH). -/
def returnOkUntouched (out : Payload) (s : State) : Result := .next (s.respond (statusWord 0 okCode) out)

/-- `raise Error(code)`: the failed command has had no effect (60_exceptions.md R246, 10_state.md R30). -/
def raiseError (e : TypedError) (s : State) : Result := .next (s.respond (statusWord 0 e.code) emptyPayload)

/-- Taking a fault: `raise Fault(code)` ends the command, latches FLT and records the cause; there is no vector and no saved
state (60_exceptions.md R247). -/
def raiseFault (cause : FaultCause) (s : State) : Result :=
  .next ((s.latchFault cause).respond (statusWord 0 cause.code) emptyPayload)

/-- A request that is no command (30_encoding.md R86): a halted block refuses it all the same, any other faults. -/
def rejectRequest (s : State) : Result := accept s (raiseFault .illegal)

/-- Reset, the only way back to FLT = 0 (60_exceptions.md R253, 70_reset_and_hazards.md R280): every register as after reset;
what the host will deliver afterwards is not the block's (log 9). -/
def State.takeReset (s : State) : State := { State.reset with inbox := s.inbox }

end Sys2Proof.Machine
end

