-- ==== Sys2Proof/Machine/Operands.lean ====
section
/-! DEFINITION. The operand forms (spec/30_encoding.md R82): the length check of a fixed-shape payload, digests in limb form
(spec/44_tree.md R190, spec/45_digest.md R210), the load of lanes from a payload and the unload into a response. -/

namespace Sys2Proof.Machine

/-- The length check of a fixed-shape command (60_exceptions.md R243, R251 step 4). -/
def requireWidth (k : Nat) (pay : List Word) (run : State → Result) (s : State) : Result :=
  if pay.length = k then run s else raiseFault .width s

/-- The membership check of a payload of digest limbs (44_tree.md R190, 45_digest.md R213). -/
def requireLimbs (pay : List Word) (run : State → Result) (s : State) : Result :=
  if pay.all isMember then run s else raiseError .range s

/-- The digest that stands at index `off` of a word payload, limb0 first. -/
def digestAt (pay : List Word) (off : Nat) : Digest :=
  #v[pay.getD off 0, pay.getD (off + 1) 0, pay.getD (off + 2) 0, pay.getD (off + 3) 0]

/-- The all-zero digest (45_digest.md R210). -/
def zeroDigest : Digest := #v[0, 0, 0, 0]

/-- A 4-tuple of words is a valid digest when every word is below p (45_digest.md R210). -/
def validDigest (D : Digest) : Bool := D.toList.all isMember

/-- `LOADW(off, cnt)`: overwrite the leading lanes from the sequence `x`, reducing each word; the other lanes keep their
values (42_sponge.md R162, 41_permutation.md R142). No rule reads outside the sequence. -/
def loadw (x : List Word) (off cnt : Nat) (d : Datapath) : Datapath :=
  { d with
    S := lanesOf fun i => if i.val < cnt then fred (x.getD (off + i.val) 0) else d.S[i]
    IPOS := off + cnt }

/-- The lanes `[A, B, 0, 0, 0, 0]`: two digests and the capacity vector of an internal node (44_tree.md R191). -/
def digestLanes (A B : Digest) : Lanes := #v[A[0], A[1], A[2], A[3], B[0], B[1], B[2], B[3], 0, 0, 0, 0]

/-- Lanes 0 to 3 as a digest. -/
def laneDigest (v : Lanes) : Digest := #v[v[0], v[1], v[2], v[3]]

/-- The first `g` lanes, in order. -/
def leadingLanes (g : Nat) (v : Lanes) : List Word := v.toList.take g

/-- The response payload of an unload of `g` lanes, and the count of units produced. -/
def unload (g : Nat) (d : Datapath) (s : State) : Result :=
  returnOk (.words (leadingLanes g d.S)) { d with OCNT := g } s

end Sys2Proof.Machine
end

