-- ==== Sys2Proof/Machine/Codec.lean ====
section
/-! DEFINITION. The digest encoder and decoder and the commands ENCB, DECB, ENCH and DECH (spec/45_digest.md). They read no
table and touch no scratch register. -/

namespace Sys2Proof.Machine

/-- A limb as 8 bytes, most significant first (20_memory.md R51). -/
def limbBytes (v : Word) : List Byte := (List.range 8).map fun t => v.extractLsb' (56 - 8 * t) 8

/-- `EncodeBytes(D)`: the groups limb3, limb2, limb1, limb0 (R211). -/
def encodeBytes (D : Digest) : List Byte := D.toList.reverse.flatMap limbBytes

/-- The big-endian value of a group of bytes (R214). -/
def bigEndian (l : List Byte) : Nat := l.foldl (fun acc b => 256 * acc + b.toNat) 0

/-- Limb `t` of a 32-byte buffer: the value of group 3 - t (R214). -/
def limbOf (b : List Byte) (t : Nat) : Word := BitVec.ofNat 64 (bigEndian ((b.drop (8 * (3 - t))).take 8))

/-- `DecodeBytes(b)`: the length test first, then the limbs tested and never reduced (R214). -/
def decodeBytes (b : List Byte) : Except TypedError Digest :=
  if b.length = 32 then
    let D : Digest := #v[limbOf b 0, limbOf b 1, limbOf b 2, limbOf b 3]
    if validDigest D then .ok D else .error .range
  else .error .length

/-- `hexdigit(n)`: lowercase ASCII (R218). -/
def hexDigit (n : BitVec 4) : Byte :=
  if n.toNat < 10 then BitVec.ofNat 8 (0x30 + n.toNat) else BitVec.ofNat 8 (0x61 + (n.toNat - 10))

/-- `EncodeHex(D)`: two digits for each byte, the high nibble first, never a prefix (R217). -/
def encodeHex (D : Digest) : List Byte :=
  (encodeBytes D).flatMap fun b => [hexDigit (b.extractLsb' 4 4), hexDigit (b.extractLsb' 0 4)]

/-- The value of a hexadecimal digit of either case; none for any other byte (R221, 20_memory.md R54). -/
def hexVal (ch : Byte) : Option (BitVec 4) :=
  let n := ch.toNat
  if 0x30 ≤ n ∧ n ≤ 0x39 then some (BitVec.ofNat 4 (n - 0x30))
  else if 0x61 ≤ n ∧ n ≤ 0x66 then some (BitVec.ofNat 4 (n - 0x61 + 10))
  else if 0x41 ≤ n ∧ n ≤ 0x46 then some (BitVec.ofNat 4 (n - 0x41 + 10))
  else none

/-- The text without its optional leading `0x`, stripped at most once (R221 line 1). -/
def stripPrefix (t : List Byte) : List Byte :=
  match t with
  | a :: b :: rest => if a = 0x30#8 ∧ b = 0x78#8 then rest else t
  | _ => t

/-- Digits paired into bytes, the high nibble first; none if their number is odd (R221 lines 2 and 4). -/
def pairNibbles : List (BitVec 4) → Option (List Byte)
  | [] => some []
  | [_] => none
  | hi :: lo :: rest => (pairNibbles rest).map fun bs => (hi ++ lo) :: bs

/-- The bytes a text spells: none where the text is malformed (R221 lines 1 to 4). -/
def textBytes (t : List Byte) : Option (List Byte) := ((stripPrefix t).mapM hexVal).bind pairNibbles

/-- `DecodeHex(t)`: text, then length, then range (R221). -/
def decodeHex (t : List Byte) : Except TypedError Digest :=
  match textBytes t with
  | none => .error .text
  | some b => decodeBytes b

/-- The check of the digest operand of ENCB and ENCH (R212, R213). -/
def withDigest (pay : List Word) (run : Digest → State → Result) (s : State) : Result :=
  accept s (requireWidth 4 pay (requireLimbs pay fun s => run (digestAt pay 0) s))

/-- The end of a decoding command: the typed error, or the four limbs, limb0 first (R215, R222). -/
def returnDecoded (r : Except TypedError Digest) (s : State) : Result :=
  match r with
  | .error e => raiseError e s
  | .ok D => returnOkUntouched (.words D.toList) s

/-- ENCB (R212). -/
def execEncb (pay : List Word) (s : State) : Result :=
  withDigest pay (fun D s => returnOkUntouched (.bytes (encodeBytes D)) s) s

/-- DECB (R215). -/
def execDecb (pay : List Byte) (s : State) : Result := accept s (returnDecoded (decodeBytes pay))

/-- ENCH (R218). -/
def execEnch (pay : List Word) (s : State) : Result :=
  withDigest pay (fun D s => returnOkUntouched (.bytes (encodeHex D)) s) s

/-- DECH (R222). -/
def execDech (pay : List Byte) (s : State) : Result := accept s (returnDecoded (decodeHex pay))

end Sys2Proof.Machine
end

