-- ==== Sys2Proof/Machine/Permutation.lean ====
section
/-! DEFINITION. The permutation core (spec/41_permutation.md): micro-operations, rounds, schedule, and the command PERM. -/

namespace Sys2Proof.Machine

/-- `ARK(base)`: add twelve round constants (R132). -/
def ark (c : Config) (base : Nat) (d : Datapath) : Datapath :=
  { d with S := lanesOf fun i => fadd d.S[i] (feltWord (c.RC (base + i.val))) }

/-- `SBOX`: the S-box on every lane (R133). -/
def sbox (d : Datapath) : Datapath := { d with S := lanesOf fun i => fpow7 d.S[i] }

/-- Line 1 of `MIX(T)`: every new lane, formed in N from the old lanes (R134, 70_reset_and_hazards.md R289). -/
def mixSums (T : Fin 12 → Fin 12 → Felt) (d : Datapath) : Datapath :=
  { d with N := lanesOf fun i => fsum fun j => fmul d.S[j] (feltWord (T j i)) }

/-- `MIX(T)`: the row vector S times the matrix T (R134). -/
def mix (T : Fin 12 → Fin 12 → Felt) (d : Datapath) : Datapath :=
  let d := mixSums T d
  { d with S := d.N }

/-- `SBOX0`: the S-box on lane 0 only (R135). -/
def sbox0 (d : Datapath) : Datapath := { d with S := d.S.set 0 (fpow7 d.S[0]) }

/-- `ARK0(k)`: add one scalar constant to lane 0 (R136). -/
def ark0 (c : Config) (k : Nat) (d : Datapath) : Datapath :=
  { d with S := d.S.set 0 (fadd d.S[0] (feltWord (c.RC k))) }

/-- `SPARSE(r)`, its four lines in order (R138). T0 keeps the pre-update lane 0 (70_reset_and_hazards.md R287); the new lane 0
waits in N[0], as lines 2 and 4 say; under R23 it would wait elsewhere, `sparseApart`, which leaves the same registers after every
permutation (log 11; `runScheduleApart_eq`). -/
def sparse (c : Config) (r : Nat) (d : Datapath) : Datapath :=
  let b := 23 * r
  let d := { d with T0 := d.S[0] }
  let d := { d with N := d.N.set 0 (fsum fun i => fmul (feltWord (c.SPR (b + i.val))) d.S[i]) }
  let d := { d with
    S := lanesOf fun i => if i = 0 then d.S[i] else fadd d.S[i] (fmul (feltWord (c.SPR (b + 12 + (i.val - 1)))) d.T0) }
  { d with S := d.S.set 0 d.N[0] }

/-- `SPARSE(r)` as R23 has it, N 'written and read only by MIX': the new lane 0 waits in a temporary that is no register, and
everything else is as in R138 (log 11). -/
def sparseApart (c : Config) (r : Nat) (d : Datapath) : Datapath :=
  let b := 23 * r
  let first := fsum fun i => fmul (feltWord (c.SPR (b + i.val))) d.S[i]
  let d := { d with T0 := d.S[0] }
  { d with
    S := lanesOf fun i => if i = 0 then first else fadd d.S[i] (fmul (feltWord (c.SPR (b + 12 + (i.val - 1)))) d.T0) }

/-- The sequencer enters round `r` of a phase (10_state.md R29). -/
def enterRound (ph : Phase) (r : Nat) (d : Datapath) : Datapath := { d with PH := ph, RND := r }

/-- `FULL1(r)`: S-box, constants, matrix; the last round of the half uses PRE (R137). -/
def fullRound1 (c : Config) (r : Nat) (d : Datapath) : Datapath :=
  mix (if r = c.Hm1 then c.PRE else c.MDS) (ark c (12 * (r + 1)) (sbox (enterRound .full1 r d)))

/-- `PARTIAL(r)` (R139). -/
def partialRound (c : Config) (r : Nat) (d : Datapath) : Datapath :=
  sparse c r (ark0 c (12 * (c.H + 1) + r) (sbox0 (enterRound .partialRounds r d)))

/-- `PARTIAL(r)` with N kept to MIX alone (R139, R23). -/
def partialRoundApart (c : Config) (r : Nat) (d : Datapath) : Datapath :=
  sparseApart c r (ark0 c (12 * (c.H + 1) + r) (sbox0 (enterRound .partialRounds r d)))

/-- The constants of round `r` of the second half: none in its last round (R140). -/
def closingConstants (c : Config) (r : Nat) (d : Datapath) : Datapath :=
  if r < c.Hm1 then ark c (12 * (c.H + 1) + c.RP + 12 * r) d else d

/-- `FULL2(r)` (R140). -/
def fullRound2 (c : Config) (r : Nat) (d : Datapath) : Datapath :=
  mix c.MDS (closingConstants c r (sbox (enterRound .full2 r d)))

/-- The schedule of one permutation: the four steps of R141. -/
def runSchedule (c : Config) (d : Datapath) : Datapath :=
  let d := ark c 0 { d with PH := .arkInit }
  let d := loop c.H (fullRound1 c) d
  let d := loop c.RP (partialRound c) d
  loop c.H (fullRound2 c) d

/-- The schedule of R141 with N kept to MIX alone, as R23 has it. It is `runSchedule` in every register (`runScheduleApart_eq`). -/
def runScheduleApart (c : Config) (d : Datapath) : Datapath :=
  let d := ark c 0 { d with PH := .arkInit }
  let d := loop c.H (fullRound1 c) d
  let d := loop c.RP (partialRoundApart c) d
  loop c.H (fullRound2 c) d

/-- `Permute(v)`: the value of the lane file after the schedule, started with S = v (R141). -/
def permute (c : Config) (v : Lanes) : Lanes := (runSchedule c { Datapath.reset with S := v }).S

/-- PERM under a configuration (R142). -/
def permOn (c : Config) (pay : List Word) (s : State) : Result :=
  accept s (requireWidth 12 pay fun s => unload 12 (runSchedule c (loadw pay 0 12 { s.dp with PH := .load })) s)

/-- PERM (R142). -/
def execPerm (pay : List Word) (s : State) : Result := permOn Config.installed pay s

end Sys2Proof.Machine
end

