-- ==== Sys2Proof/Machine/Sponge.lean ====
section
/-! DEFINITION. The sponge and the command SPONGE (spec/42_sponge.md). -/

namespace Sys2Proof.Machine

/-- Absorption starts from the all-zero state, the capacity lanes included (R161). -/
def absorbInit (d : Datapath) : Datapath := { d with S := lanesOf fun _ => 0, PH := .absorb, IPOS := 0 }

/-- One absorption step: overwrite the leading `cnt` lanes from the input, then one permutation (R163, R164). -/
def absorbBlock (c : Config) (x : List Word) (off cnt : Nat) (d : Datapath) : Datapath :=
  runSchedule c (loadw x off cnt { d with PH := .absorb })

/-- The full blocks: ⌊k / 8⌋ of them, in order (R163). -/
def absorbFull (c : Config) (x : List Word) (d : Datapath) : Datapath :=
  loop (x.length / 8) (fun b => absorbBlock c x (8 * b) 8) d

/-- The remainder, where there is one; the lanes it does not reach are not re-zeroed (R164). -/
def absorbRemainder (c : Config) (x : List Word) (d : Datapath) : Datapath :=
  if x.length % 8 = 0 then d else absorbBlock c x (8 * (x.length / 8)) (x.length % 8) d

/-- Absorption of a sequence (R161, R163, R164). -/
def absorb (c : Config) (x : List Word) (d : Datapath) : Datapath :=
  absorbRemainder c x (absorbFull c x (absorbInit d))

/-- The squeeze loop of R167 with `n` outputs still to produce: emit one group, and permute only if another follows. The
first argument bounds the number of groups. -/
def squeezeGroups (c : Config) : Nat → Nat → Datapath → List Word × Datapath
  | 0, _, d => ([], d)
  | g + 1, n, d =>
    let group := leadingLanes (min 8 n) d.S
    let d := { d with PH := .squeeze, OCNT := d.OCNT + min 8 n }
    if n ≤ 8 then (group, d)
    else
      let rest := squeezeGroups c g (n - 8) (runSchedule c d)
      (group ++ rest.1, rest.2)

/-- The squeeze of `n` outputs in ⌈n / 8⌉ groups, and the scratch registers it leaves (R167). -/
def squeeze (c : Config) (n : Nat) (d : Datapath) : List Word × Datapath :=
  squeezeGroups c ((n + 7) / 8) n { d with OCNT := 0 }

/-- The lanes after absorption of `x`. -/
def absorbLanes (c : Config) (x : List Word) : Lanes := (absorb c x .reset).S

/-- `Sponge(x, n)` for n ≥ 1 (R160, R168); zero outputs are not a defined case, so the count is a positive number. -/
def sponge (c : Config) (x : List Word) (n : ℕ+) : List Word := (squeeze c n (absorb c x .reset)).1

/-- SPONGE n under a configuration (R166). -/
def spongeOn (c : Config) (n : Nat) (pay : List Word) (s : State) : Result :=
  accept s fun s =>
    if n = 0 then raiseFault .count s
    else
      let result := squeeze c n (absorb c pay s.dp)
      returnOk (.words result.1) result.2 s

/-- SPONGE n (R166). -/
def execSponge (n : Nat) (pay : List Word) (s : State) : Result := spongeOn Config.installed n pay s

end Sys2Proof.Machine
end

