-- ==== Sys2Proof/Machine/Hash.lean ====
section
/-! DEFINITION. The hash entry points and the commands HASHN and HASHP (spec/43_hash.md). -/

namespace Sys2Proof.Machine

/-- `HashNoPad(x)`: the digest whose limbs are `Sponge(x, 4)` (R180). -/
def hashNoPad (c : Config) (x : List Word) : Digest := digestAt (sponge c x 4) 0

/-- The number of zeros that padding appends to an input of `k` elements (R183 step 2). -/
def padZeros (k : Nat) : Nat := (12 - (k + 1) % 12) % 12

/-- `Pad(x)`: prepend 1, append zeros up to a multiple of 12, append 1 (R183). -/
def pad (x : List Word) : List Word := [1] ++ x ++ List.replicate (padZeros x.length) 0 ++ [1]

/-- `HashPad(x)` (R185). -/
def hashPad (c : Config) (x : List Word) : Digest := hashNoPad c (pad x)

/-- HASHN under a configuration (R181). -/
def hashnOn (c : Config) (pay : List Word) (s : State) : Result :=
  accept s fun s => unload 4 (absorb c pay s.dp) s

/-- HASHN (R181). -/
def execHashn (pay : List Word) (s : State) : Result := hashnOn Config.installed pay s

/-- HASHP under a configuration: the words are reduced before padding (R184). -/
def hashpOn (c : Config) (pay : List Word) (s : State) : Result :=
  accept s fun s => unload 4 (absorb c (pad (pay.map fred)) s.dp) s

/-- HASHP (R184). -/
def execHashp (pay : List Word) (s : State) : Result := hashpOn Config.installed pay s

end Sys2Proof.Machine
end

