-- ==== Sys2Proof/Machine/Tree.lean ====
section
/-! DEFINITION. The tree hashing layer and the commands COMP, LEAF and ZEROS (spec/44_tree.md). -/

namespace Sys2Proof.Machine

/-- Load two digests and the capacity vector, then one permutation (R191). -/
def compressRun (c : Config) (A B : Digest) (d : Datapath) : Datapath :=
  runSchedule c { d with S := digestLanes A B }

/-- Overwrite lanes 0 to 3 with the domain tag {1, 1, 0, 1} (R194). -/
def tagLeaf (d : Datapath) : Datapath :=
  { d with S := lanesOf fun i => if i.val = 0 then 1 else if i.val = 1 then 1 else if i.val = 2 then 0 else if i.val = 3 then 1 else d.S[i] }

/-- The leaf variant: a permutation, the tag, a second permutation (R194, R196). -/
def leafRun (c : Config) (A B : Digest) (d : Datapath) : Datapath := runSchedule c (tagLeaf (compressRun c A B d))

/-- `Compress(A, B)` (R191). -/
def compress (c : Config) (A B : Digest) : Digest := laneDigest (compressRun c A B .reset).S

/-- `CompressLeaf(A, B)` (R194). -/
def compressLeaf (c : Config) (A B : Digest) : Digest := laneDigest (leafRun c A B .reset).S

/-- Level `levels - 2 - k` of the chain, from the level below it, which heads the list (R197, R198 line 3). -/
def chainStep (c : Config) (levels k : Nat) (acc : List Digest × Datapath) : List Digest × Datapath :=
  let below := acc.1.headD zeroDigest
  let d := compressRun c below below { acc.2 with LVL := levels - 2 - k }
  (laneDigest d.S :: acc.1, d)

/-- The chain from the leaf level upward; the list has the level nearest the root first (R197). -/
def chainRun (c : Config) (levels : Nat) (d : Datapath) : List Digest × Datapath :=
  loop (levels - 1) (chainStep c levels) ([zeroDigest], { d with LVL := levels - 1 })

/-- `EmptyChain(levels)` for levels ≥ 1 (R197); no levels are not a defined case, so the depth is a positive number. -/
def emptyChain (c : Config) (levels : ℕ+) : List Digest := (chainRun c levels .reset).1

/-- The words of a sequence of digests, each limb0 first (30_encoding.md R82). -/
def digestWords (Z : List Digest) : List Word := Z.flatMap fun D => D.toList

/-- The check and load of the two digest operands of COMP and LEAF: nothing is written before both checks pass (R190). -/
def withTwoDigests (pay : List Word) (run : Digest → Digest → Datapath → State → Result) (s : State) : Result :=
  accept s (requireWidth 8 pay (requireLimbs pay fun s =>
    run (digestAt pay 0) (digestAt pay 4) { s.dp with PH := .load, IPOS := 8 } s))

/-- COMP under a configuration (R192). -/
def compOn (c : Config) (pay : List Word) (s : State) : Result :=
  withTwoDigests pay (fun A B d s => unload 4 (compressRun c A B d) s) s

/-- COMP (R192). -/
def execComp (pay : List Word) (s : State) : Result := compOn Config.installed pay s

/-- LEAF under a configuration (R195). -/
def leafOn (c : Config) (pay : List Word) (s : State) : Result :=
  withTwoDigests pay (fun A B d s => unload 4 (leafRun c A B d) s) s

/-- LEAF (R195). -/
def execLeaf (pay : List Word) (s : State) : Result := leafOn Config.installed pay s

/-- ZEROS levels under a configuration: the width is checked before the depth (R198, 60_exceptions.md R251). -/
def zerosOn (c : Config) (levels : Nat) (pay : List Word) (s : State) : Result :=
  accept s (requireWidth 0 pay fun s =>
    if levels = 0 then raiseFault .levels s
    else
      let result := chainRun c levels s.dp
      returnOk (.words (digestWords result.1)) { result.2 with OCNT := 4 * levels } s)

/-- ZEROS levels (R198). -/
def execZeros (levels : Nat) (pay : List Word) (s : State) : Result := zerosOn Config.installed levels pay s

end Sys2Proof.Machine
end

