-- ==== Sys2Proof/Machine/Dispatch.lean ====
section
/-! DEFINITION. The meaning of every command, one arm for each constructor of `Instr` (spec/30_encoding.md R84). -/

namespace Sys2Proof.Machine

def exec (i : Instr) (s : State) : Host.Outcome State Fault Refusal :=
  match i with
  | .perm pay => Sys2Proof.Machine.execPerm pay s
  | .sponge n pay => Sys2Proof.Machine.execSponge n pay s
  | .hashn pay => Sys2Proof.Machine.execHashn pay s
  | .hashp pay => Sys2Proof.Machine.execHashp pay s
  | .comp pay => Sys2Proof.Machine.execComp pay s
  | .leaf pay => Sys2Proof.Machine.execLeaf pay s
  | .zeros levels pay => Sys2Proof.Machine.execZeros levels pay s
  | .encb pay => Sys2Proof.Machine.execEncb pay s
  | .decb pay => Sys2Proof.Machine.execDecb pay s
  | .ench pay => Sys2Proof.Machine.execEnch pay s
  | .dech pay => Sys2Proof.Machine.execDech pay s

end Sys2Proof.Machine
end

