-- ==== Sys2Proof/Machine/Fetch.lean ====
section
/-! DEFINITION. The host interface (spec/30_encoding.md R80, R91; spec/70_reset_and_hazards.md R280, R283, R285): what the
block takes next. -/

namespace Sys2Proof.Machine

/-- What a step finds: nothing to execute, or a request. -/
inductive Fetched where
  /-- The step ends here: the block waits, or has been reset. -/
  | quiet (s : State)
  /-- A request to execute from this state. -/
  | command (r : Request) (s : State)
deriving DecidableEq, Repr

/-- The host has taken the response of the command before (R285), and the block keeps no copy (10_state.md R35). -/
def State.deliver (s : State) (rest : List HostEvent) : State := { s with inbox := rest, resp := none }

/-- Take the next event, in the order the host presents them (R91); an idle block waits (60_exceptions.md R260). -/
def fetch (s : State) : Fetched :=
  match s.inbox with
  | [] => .quiet (s.deliver [])
  | .reset :: rest => .quiet (s.deliver rest).takeReset
  | .request r :: rest => .command r (s.deliver rest)

end Sys2Proof.Machine
end

