-- ==== Sys2Proof/Machine/Step.lean ====
section
/-! DEFINITION. One step of one instance: one whole command, a reset, or an idle wait (spec/30_encoding.md R91,
spec/70_reset_and_hazards.md R283, R291). -/

namespace Sys2Proof.Machine

/-- One step. -/
def step (s : State) : Host.Outcome State Fault Refusal :=
  match fetch s with
  | .quiet t => .next t
  | .command r t =>
    match decode r with
    | .error _ => rejectRequest t
    | .ok i => exec i t

/-- The host presents the request of a table word next (log 3). -/
def State.withFetchWord (s : State) (nbits w : Nat) : State :=
  { s with inbox := .request (tableRequest nbits w) :: s.inbox }

end Sys2Proof.Machine
end

