-- ==== Sys2Proof/Machine/Instances.lean ====
section
/-! DEFINITION. Several instances (spec/60_exceptions.md R262): each has its own state and its own channels, they share only
the configuration, and one of them steps at a time (log 7). -/

namespace Sys2Proof.Machine

/-- The state after instance `k` has taken its step; there is no instance beyond the list. -/
def stepInstance (k : Nat) (m : List State) : Host.Outcome (List State) Fault Refusal :=
  match m[k]? with
  | none => .next m
  | some s =>
    match step s with
    | .next t => .next (m.set k t)
    | .fault f => .fault f
    | .refused r => .refused r

/-- `NINST` instances, each right after reset. -/
def instancesReset : List State := List.replicate (Config.furtherInstances + 1) State.reset

end Sys2Proof.Machine
end

