-- ==== Sys2Proof/Machine/Parametric.lean ====
section
/-! DEFINITION. The machine as a function of the configuration (spec/10_state.md R34: "a parameter of the step function, the
same for every step and every instance"). `exec` and `step` are these at `Config.installed`. -/

namespace Sys2Proof.Machine

/-- The meaning of a command under a configuration. -/
def execUnder (c : Config) (i : Instr) (s : State) : Result :=
  match i with
  | .perm pay => permOn c pay s
  | .sponge n pay => spongeOn c n pay s
  | .hashn pay => hashnOn c pay s
  | .hashp pay => hashpOn c pay s
  | .comp pay => compOn c pay s
  | .leaf pay => leafOn c pay s
  | .zeros levels pay => zerosOn c levels pay s
  | .encb pay => execEncb pay s
  | .decb pay => execDecb pay s
  | .ench pay => execEnch pay s
  | .dech pay => execDech pay s

/-- One step under a configuration. -/
def stepUnder (c : Config) (s : State) : Result :=
  match fetch s with
  | .quiet t => .next t
  | .command r t =>
    match decode r with
    | .error _ => rejectRequest t
    | .ok i => execUnder c i t

end Sys2Proof.Machine
end

