-- ==== Sys2Proof/Machine/Sequencer.lean ====
section
/-! DEFINITION. The small-step reading of the permutation (spec/41_permutation.md R145): each micro-operation of R132 to R138
is one step, and the hidden registers PH and RND of spec/10_state.md R29 walk LOAD, ARK_INIT, FULL1, PARTIAL, FULL2, UNLOAD.
The machine's own step is a whole command; this sequencer is the block's inside while it executes PERM (R142). -/

namespace Sys2Proof.Machine

/-- Which line of a round's pseudocode comes next. PH and RND alone do not say it; the spec names no register for it, so it is
the model's own (DESIGN CHOICE, log 17). -/
inductive Line where
  | first | second | third
deriving DecidableEq, Repr

/-- The inside of the block during PERM: the scratch registers, the line, the payload PAY and the response OUT so far. -/
structure Sequencer where
  dp : Datapath
  line : Line
  pay : List Word
  out : List Word
deriving DecidableEq, Repr

/-- A micro-operation inside a round: the scratch registers change, and the next line comes. -/
def Sequencer.micro (q : Sequencer) (op : Datapath → Datapath) (next : Line) : Sequencer :=
  { q with dp := op q.dp, line := next }

/-- After the last line of round RND in a phase of `n` rounds: the next round, or the phase `ph` from its round 0. -/
def advanceRound (n : Nat) (ph : Phase) (d : Datapath) : Datapath :=
  if d.RND + 1 < n then { d with RND := d.RND + 1 } else { d with PH := ph, RND := 0 }

/-- After the last line of round RND of the second half: the next round, or UNLOAD. R145 gives RND no value at UNLOAD: it keeps
that of the last round (DESIGN CHOICE, log 17), as the schedule's does (log 6). -/
def advanceFull2 (n : Nat) (d : Datapath) : Datapath :=
  if d.RND + 1 < n then { d with RND := d.RND + 1 } else { d with PH := .unload }

/-- The phase after the first full-round half: there is no partial phase when RP = 0 (R141 step 3 is empty). -/
def afterFull1 (c : Config) : Phase := if c.RP = 0 then .full2 else .partialRounds

/-- The matrix of round `r` of the first half (R137 line 3). -/
def full1Matrix (c : Config) (r : Nat) : Fin 12 → Fin 12 → Felt := if r = c.Hm1 then c.PRE else c.MDS

/-- A line of FULL1(RND) (R137). -/
def seqFull1 (c : Config) (q : Sequencer) : Sequencer :=
  match q.line with
  | .first => q.micro sbox .second
  | .second => q.micro (ark c (12 * (q.dp.RND + 1))) .third
  | .third => q.micro (fun d => advanceRound c.H (afterFull1 c) (mix (full1Matrix c d.RND) d)) .first

/-- A line of PARTIAL(RND) (R139). -/
def seqPartial (c : Config) (q : Sequencer) : Sequencer :=
  match q.line with
  | .first => q.micro sbox0 .second
  | .second => q.micro (ark0 c (12 * (c.H + 1) + q.dp.RND)) .third
  | .third => q.micro (fun d => advanceRound c.RP .full2 (sparse c d.RND d)) .first

/-- A line of FULL2(RND) (R140): in the last round no micro-operation stands between the S-box and the matrix. -/
def seqFull2 (c : Config) (q : Sequencer) : Sequencer :=
  match q.line with
  | .first => q.micro sbox (if q.dp.RND < c.Hm1 then .second else .third)
  | .second => q.micro (ark c (12 * (c.H + 1) + c.RP + 12 * q.dp.RND)) .third
  | .third => q.micro (fun d => advanceFull2 c.H (mix c.MDS d)) .first

/-- One step of the sequencer: one micro-operation, chosen by PH, RND and the line; the load (R142 line 2, LOADW) and the unload
(R142 line 4) are one step each. In IDLE, and in the phases of the sponge, PERM has nothing to do. -/
def seqStep (c : Config) (q : Sequencer) : Sequencer :=
  match q.dp.PH with
  | .load => q.micro (fun d => { loadw q.pay 0 12 d with PH := .arkInit }) .first
  | .arkInit => q.micro (fun d => { ark c 0 d with PH := .full1, RND := 0 }) .first
  | .full1 => seqFull1 c q
  | .partialRounds => seqPartial c q
  | .full2 => seqFull2 c q
  | .unload => { q with dp := { q.dp with PH := .idle, OCNT := 12 }, out := q.out ++ leadingLanes 12 q.dp.S }
  | .idle | .absorb | .squeeze => q

/-- `n` steps of the sequencer. -/
def seqRun (c : Config) : Nat → Sequencer → Sequencer
  | 0, q => q
  | n + 1, q => seqRun c n (seqStep c q)

/-- PERM begins: the phase is LOAD, no payload unit is consumed and no response unit produced, so IPOS and OCNT are 0 (R29; R33:
they are 'written at the start of each use'). That they are written as PERM starts, before its first micro-operation, and keep 0
until the load and the unload step, is the model's choice, and so is leaving RND until FULL1 (DESIGN CHOICE, log 17). -/
def seqStart (pay : List Word) (d : Datapath) : Sequencer :=
  { dp := { d with PH := .load, IPOS := 0, OCNT := 0 }, line := .first, pay := pay, out := [] }

end Sys2Proof.Machine
end

