-- ==== Sys2Proof/Machine/Work.lean ====
section
/-! DEFINITION. The work of a command in permutation calls (spec/70_reset_and_hazards.md R291), counted by a run of the same
definitions in which every schedule adds one to a counter. Bookkeeping, not timing: the counter stands beside the machine and
is no part of its state (log 10). ENCB, DECB, ENCH and DECH take no configuration, so they can run no schedule. -/

namespace Sys2Proof.Machine

/-- The scratch registers with the number of schedules run so far. -/
structure Counted where
  dp : Datapath
  calls : Nat
deriving DecidableEq, Repr

/-- One schedule: one permutation call. -/
def Counted.run (c : Config) (w : Counted) : Counted := ⟨runSchedule c w.dp, w.calls + 1⟩

/-- Work between two schedules. -/
def Counted.work (w : Counted) (f : Datapath → Datapath) : Counted := ⟨f w.dp, w.calls⟩

/-- `absorbBlock`, counted. -/
def countedBlock (c : Config) (x : List Word) (off cnt : Nat) (w : Counted) : Counted :=
  (w.work fun d => loadw x off cnt { d with PH := .absorb }).run c

/-- `absorb`, counted. -/
def countedAbsorb (c : Config) (x : List Word) (w : Counted) : Counted :=
  let w := loop (x.length / 8) (fun b => countedBlock c x (8 * b) 8) (w.work absorbInit)
  if x.length % 8 = 0 then w else countedBlock c x (8 * (x.length / 8)) (x.length % 8) w

/-- `squeezeGroups`, counted. -/
def countedGroups (c : Config) : Nat → Nat → Counted → List Word × Counted
  | 0, _, w => ([], w)
  | g + 1, n, w =>
    let group := leadingLanes (min 8 n) w.dp.S
    let w := w.work fun d => { d with PH := .squeeze, OCNT := d.OCNT + min 8 n }
    if n ≤ 8 then (group, w)
    else
      let rest := countedGroups c g (n - 8) (w.run c)
      (group ++ rest.1, rest.2)

/-- `squeeze`, counted. -/
def countedSqueeze (c : Config) (n : Nat) (w : Counted) : List Word × Counted :=
  countedGroups c ((n + 7) / 8) n (w.work fun d => { d with OCNT := 0 })

/-- `compressRun`, counted. -/
def countedCompress (c : Config) (A B : Digest) (w : Counted) : Counted :=
  (w.work fun d => { d with S := digestLanes A B }).run c

/-- `leafRun`, counted. -/
def countedLeaf (c : Config) (A B : Digest) (w : Counted) : Counted := ((countedCompress c A B w).work tagLeaf).run c

/-- `chainStep`, counted. -/
def countedChainStep (c : Config) (levels k : Nat) (acc : List Digest × Counted) : List Digest × Counted :=
  let below := acc.1.headD zeroDigest
  let w := countedCompress c below below (acc.2.work fun d => { d with LVL := levels - 2 - k })
  (laneDigest w.dp.S :: acc.1, w)

/-- `chainRun`, counted. -/
def countedChain (c : Config) (levels : Nat) (w : Counted) : List Digest × Counted :=
  loop (levels - 1) (countedChainStep c levels) ([zeroDigest], w.work fun d => { d with LVL := levels - 1 })

end Sys2Proof.Machine
end

