-- ==== Sys2Proof/Safety.lean ====
section
/-! DEFINITION. What holds of every state a run can reach, in the terms the claims use. -/

namespace Sys2Proof.Machine

/-- Every lane holds a canonical field element (10_state.md R24). -/
def Canonical (v : Lanes) : Prop := ∀ i : Fin 12, v[i].toNat < modulus

/-- The lane invariant: S, T0 and N hold canonical field elements (10_state.md R24). -/
structure LanesCanonical (d : Datapath) : Prop where
  lanes : Canonical d.S
  temporary : d.T0.toNat < modulus
  buffer : Canonical d.N

/-- FCAUSE is 0 while FLT = 0, and one of the four fault codes while FLT = 1 (10_state.md R27). -/
def LatchConsistent (s : State) : Prop :=
  (s.FLT = false → s.FCAUSE = 0#8) ∧ (s.FLT = true → ∃ cause : FaultCause, s.FCAUSE = cause.code)

/-- Every word of a response payload is the export of a field element (40_field.md R117). -/
def Payload.exported : Payload → Prop
  | .words l => ∀ w ∈ l, w.toNat < modulus
  | .bytes _ => True

/-- The responses the block can give (30_encoding.md R83, R90; 93_implementation_defined.md U15): OK with an exported payload; a
typed error or a fault, with nothing; a halted refusal that names a fault, with nothing. -/
def Response.legal (r : Response) : Prop :=
  (r.stat = 0x00000000#32 ∧ r.out.exported) ∨
  (r.out = emptyPayload ∧
    ((∃ e : TypedError, r.stat = (e.code).setWidth 32) ∨
     (∃ cause : FaultCause, r.stat = (cause.code).setWidth 32) ∨
     (∃ cause : FaultCause, r.stat.toNat = 0x8F + 256 * cause.code.toNat)))

/-- The invariant of one instance between two steps. -/
structure Invariant (s : State) : Prop where
  lanes : LanesCanonical s.dp
  latch : LatchConsistent s
  /-- Between commands the sequencer is idle (10_state.md R29). -/
  idle : s.dp.PH = .idle
  /-- The round index stays in its range (10_state.md R29). -/
  round : s.dp.RND < max Config.installed.H Config.installed.RP
  response : ∀ r, s.resp = some r → r.legal

end Sys2Proof.Machine
end

