-- ==== Sys2Proof/Certificates/Slice0/Obligations.lean ====
section
/-! DEFINITION. The statements for the provers. The rules are those of spec/; where a clause rests on the model's own choice
the docstring says so and names the log entry. The fields inbox and resp that the
statements about exec and step name are the model's own channels (log 2); that a failing command leaves the scratch registers
as they were is log 13; which sequencer counters a command leaves alone is log 6. A word of the command interface is written out
as a number of its rule. -/

open Sys2Proof Sys2Proof.Machine

/-! ### Encoding -/

/-- R81, R82, R84: a well-formed command survives the encoder and the decoder, its argument and its whole payload included. -/
def Obligations.DecodeEncodeRoundTrip : Prop :=
  ∀ i : Instr, i.wf = true → decode (encode i) = .ok i

/-- R81, R84, R92: a request that decodes is the encoding of what it decodes to, which is well formed. -/
def Obligations.EncodeDecodeRoundTrip : Prop :=
  ∀ (r : Request) (i : Instr), decode r = .ok i → i.wf = true ∧ encode i = r

/-- R84, R86, R92: the requests that decode, told by the number of the command word: the opcode is one of 1 to 11, and the
argument is 0 unless the opcode is that of SPONGE or ZEROS; the command then has that opcode and argument. -/
def Obligations.LegalCommandWords : Prop :=
  ∀ r : Request,
    ((1 ≤ r.cmd.toNat % 256 ∧ r.cmd.toNat % 256 ≤ 11 ∧
        (r.cmd.toNat / 256 = 0 ∨ r.cmd.toNat % 256 = 2 ∨ r.cmd.toNat % 256 = 7)) ↔ ∃ i, decode r = .ok i) ∧
    ∀ i, decode r = .ok i → i.opcode.toNat = r.cmd.toNat % 256 ∧ i.arg = r.cmd.toNat / 256

/-- R84: command words written out bit by bit decode to their commands. -/
def Obligations.SampleCommandWords : Prop :=
  decode ⟨0b00000000000000000000000000000001#32, []⟩ = .ok (.perm []) ∧
  decode ⟨0b00000000000000000000010000000010#32, [5#64]⟩ = .ok (.sponge 4 [5]) ∧
  decode ⟨0b00000000000000000000000000000100#32, [5#64]⟩ = .ok (.hashp [5]) ∧
  decode ⟨0b00000000000000000000000000000110#32, []⟩ = .ok (.leaf []) ∧
  decode ⟨0b00000000000000000000010000000111#32, []⟩ = .ok (.zeros 4 []) ∧
  decode ⟨0b00000000000000000000000000001001#32, [5#8]⟩ = .ok (.decb [5]) ∧
  decode ⟨0b00000000000000000000000100000001#32, []⟩ = .error .nonzeroArg ∧
  decode ⟨0b00000000000000000000000000001100#32, []⟩ = .error .undefinedOpcode

/-! ### The step -/

/-- R91: the next request, when it is a command, is executed whole by the step; the step itself only takes it from the channel
and withdraws the delivered response (the channels are the model's, log 2). -/
def Obligations.StepRunsDecodedCommand : Prop :=
  ∀ (s : State) (r : Request) (rest : List HostEvent) (i : Instr),
    s.inbox = .request r :: rest → decode r = .ok i →
    step s = exec i { s with inbox := rest, resp := none }

/-- The model's choice, log 2 (R260 says only that an idle block waits): with nothing presented a step changes nothing but
withdraws the response it delivered before. -/
def Obligations.IdleBlockWaits : Prop :=
  ∀ s : State, s.inbox = [] → step s = .next { s with resp := none }

/-- R280: reset is taken between commands, whatever the state: it clears the latch and the cause and leaves the sequencer
idle. (What stays in the inbox and that no response is pending is the model's, logs 2 and 9.) -/
def Obligations.ResetClearsTheLatch : Prop :=
  ∀ (s : State) (rest : List HostEvent), s.inbox = .reset :: rest →
    ∃ t, step s = .next t ∧ t.FLT = false ∧ t.FCAUSE = 0#8 ∧ t.dp.PH = .idle ∧ t.inbox = rest ∧ t.resp = none

/-- R33, R280: what the spec gives for reset. (The other registers have the values of log 5, of which nothing is said.) -/
def Obligations.StateAfterReset : Prop :=
  State.reset.FLT = false ∧ State.reset.FCAUSE = 0#8 ∧ State.reset.dp.PH = .idle

/-- R291: every command ends: a step always answers a next state, from every state, and so does every command. -/
def Obligations.EveryStepCompletes : Prop :=
  (∀ s : State, ∃ t, step s = .next t) ∧ (∀ (i : Instr) (s : State), ∃ t, exec i s = .next t)

/-- R83, R285: a step delivers a response exactly when it took a request. -/
def Obligations.OneResponsePerRequest : Prop :=
  ∀ s t : State, step s = .next t → (t.resp.isSome = true ↔ ∃ r rest, s.inbox = .request r :: rest)

/-- R262: a step of one instance leaves every other one as it is, and is its own step alone. -/
def Obligations.InstancesAreIndependent : Prop :=
  ∀ (k : Nat) (m m' : List State), stepInstance k m = .next m' →
    m'.length = m.length ∧ (∀ j, j ≠ k → m'[j]? = m[j]?) ∧
    (∀ s, m[k]? = some s → ∃ t, step s = .next t ∧ m'[k]? = some t)

/-! ### Faults, typed errors, the halted block -/

/-- R86, R247: a request that is no command faults with 0x81, whatever its payload; nothing else changes. (The scratch registers: log 13.) -/
def Obligations.IllegalRequestFaults : Prop :=
  ∀ (s : State) (r : Request) (rest : List HostEvent),
    s.inbox = .request r :: rest → s.FLT = false →
    (r.cmd.toNat % 256 = 0 ∨ 12 ≤ r.cmd.toNat % 256 ∨
      (r.cmd.toNat / 256 ≠ 0 ∧ r.cmd.toNat % 256 ≠ 2 ∧ r.cmd.toNat % 256 ≠ 7)) →
    step s = .next { s with inbox := rest, FLT := true, FCAUSE := 0x81#8, resp := some ⟨0x00000081#32, .words []⟩ }

/-- R249: while FLT = 1 every request, legal or not, gets STAT = 0x8F + 256·FCAUSE and an empty payload, and no state changes. -/
def Obligations.HaltedBlockRefusesEveryRequest : Prop :=
  ∀ (s : State) (r : Request) (rest : List HostEvent), s.inbox = .request r :: rest → s.FLT = true →
    ∃ q : Response, step s = .next { s with inbox := rest, resp := some q } ∧
      q.stat.toNat = 0x8F + 256 * s.FCAUSE.toNat ∧ q.out = .words []

/-- R251 step 1: every command's own first check is the latch. -/
def Obligations.HaltedBlockExecutesNothing : Prop :=
  ∀ (i : Instr) (s : State), s.FLT = true →
    ∃ q : Response, exec i s = .next { s with resp := some q } ∧ q.stat.toNat = 0x8F + 256 * s.FCAUSE.toNat ∧ q.out = .words []

/-- R243, R251 step 4: the wrong payload length of a fixed-shape command faults with 0x82, before any other check of the
command; nothing else changes. (The scratch registers: log 13.) -/
def Obligations.WrongWidthFaults : Prop :=
  ∀ (pay : List Word) (n : Nat) (s : State), s.FLT = false →
    let t := { s with FLT := true, FCAUSE := 0x82#8, resp := some ⟨0x00000082#32, .words []⟩ }
    (pay.length ≠ 12 → exec (.perm pay) s = .next t) ∧
    (pay.length ≠ 8 → exec (.comp pay) s = .next t ∧ exec (.leaf pay) s = .next t) ∧
    (pay.length ≠ 4 → exec (.encb pay) s = .next t ∧ exec (.ench pay) s = .next t) ∧
    (pay.length ≠ 0 → exec (.zeros n pay) s = .next t)

/-- R243, R251 step 5: SPONGE with no outputs faults with 0x83, ZEROS with no levels with 0x84; nothing else changes. (The scratch registers: log 13.) -/
def Obligations.ZeroCountsFault : Prop :=
  ∀ (pay : List Word) (s : State), s.FLT = false →
    exec (.sponge 0 pay) s =
      .next { s with FLT := true, FCAUSE := 0x83#8, resp := some ⟨0x00000083#32, .words []⟩ } ∧
    exec (.zeros 0 []) s =
      .next { s with FLT := true, FCAUSE := 0x84#8, resp := some ⟨0x00000084#32, .words []⟩ }

/-- R190, R213: a digest operand with a limb at or above the modulus is the typed error 0x02; nothing else changes. (The scratch registers: log 13.) -/
def Obligations.DigestOperandRangeChecked : Prop :=
  ∀ (pay : List Word) (s : State), s.FLT = false → (∃ w ∈ pay, 18446744069414584321 ≤ w.toNat) →
    let t := { s with resp := some ⟨0x00000002#32, .words []⟩ }
    (pay.length = 8 → exec (.comp pay) s = .next t ∧ exec (.leaf pay) s = .next t) ∧
    (pay.length = 4 → exec (.encb pay) s = .next t ∧ exec (.ench pay) s = .next t)

/-- R26, R27: only reset clears the latch; until then the cause stays, and so does every scratch register. -/
def Obligations.LatchClearedOnlyByReset : Prop :=
  ∀ s t : State, step s = .next t → s.FLT = true → (∀ rest, s.inbox ≠ .reset :: rest) →
    t.FLT = true ∧ t.FCAUSE = s.FCAUSE ∧ t.dp = s.dp

/-- R27, R247: the latch rises only in a fault: the response carries the code, the cause takes it, the payload is empty, and no
other state changes. (The scratch registers: log 13.) -/
def Obligations.FaultEntryLatchesItsCode : Prop :=
  ∀ s t : State, step s = .next t → s.FLT = false → t.FLT = true →
    ∃ (r : Request) (rest : List HostEvent) (code : BitVec 8),
      s.inbox = .request r :: rest ∧ 0x81 ≤ code.toNat ∧ code.toNat ≤ 0x84 ∧
      t = { s with inbox := rest, FLT := true, FCAUSE := code, resp := some ⟨code.setWidth 32, .words []⟩ }

/-- R30, R246: after a response with status 1, 2 or 3 nothing has changed but the channels. (That the scratch registers too are
as before is the model's reading, log 13; R246 says they may hold anything.) -/
def Obligations.TypedErrorLeavesNoTrace : Prop :=
  ∀ (s t : State) (q : Response), step s = .next t → t.resp = some q → 1 ≤ q.stat.toNat → q.stat.toNat ≤ 3 →
    q.out = .words [] ∧ ∃ r rest, s.inbox = .request r :: rest ∧ t = { s with inbox := rest, resp := some q }

/-! ### Whole-machine rules -/

/-- R24, R27, R29, R83, R117: every step keeps the invariant, from every state that has it. (The model's own: after a reset event
the canonical S, T0 and N and the range of RND rest on the reset values of log 5, which R33 and R280 leave unspecified; after a
typed error or a fault the scratch registers are as before by log 13.) -/
def Obligations.StepKeepsInvariant : Prop :=
  ∀ s t : State, Invariant s → step s = .next t → Invariant t

/-- The invariant holds right after reset. (That the scratch registers are canonical there rests on log 5.) -/
def Obligations.InvariantAtReset : Prop := Invariant State.reset

/-- R25, R91: a response, and the latch and cause after it, depend on the request, FLT and FCAUSE and on nothing else: two
states that agree on them cannot be told apart by the host, whatever their scratch registers hold. -/
def Obligations.ResponseIndependentOfScratch : Prop :=
  ∀ (s t u v : State) (e : HostEvent) (a b : List HostEvent),
    s.inbox = e :: a → t.inbox = e :: b → s.FLT = t.FLT → s.FCAUSE = t.FCAUSE →
    step s = .next u → step t = .next v →
    u.resp = v.resp ∧ u.FLT = v.FLT ∧ u.FCAUSE = v.FCAUSE

/-- R117: every word of every response payload is below p. -/
def Obligations.ExportedWordsBelowModulus : Prop :=
  ∀ (i : Instr) (s t : State) (stat : BitVec 32) (ws : List Word),
    exec i s = .next t → t.resp = some ⟨stat, .words ws⟩ → ∀ w ∈ ws, w.toNat < 18446744069414584321

/-! ### The field -/

/-- R112 to R115: the primitives are exact over the integers, then reduced. -/
def Obligations.FieldPrimitivesExact : Prop :=
  ∀ a b : Word,
    (fred a).toNat = a.toNat % 18446744069414584321 ∧
    (fadd a b).toNat = (a.toNat + b.toNat) % 18446744069414584321 ∧
    (fmul a b).toNat = (a.toNat * b.toNat) % 18446744069414584321 ∧
    (fpow7 a).toNat = a.toNat ^ 7 % 18446744069414584321 ∧
    (isMember a = true ↔ a.toNat < 18446744069414584321)

/-- R119: addition and multiplication make canonical words a commutative ring with identity. -/
def Obligations.FieldRingLaws : Prop :=
  ∀ a b c : Word,
    fadd a b = fadd b a ∧ fmul a b = fmul b a ∧
    fadd (fadd a b) c = fadd a (fadd b c) ∧ fmul (fmul a b) c = fmul a (fmul b c) ∧
    fmul a (fadd b c) = fadd (fmul a b) (fmul a c) ∧
    (isMember a = true → fadd a 0 = a ∧ fmul a 1 = a ∧ ∃ d, isMember d = true ∧ fadd a d = 0)

/-- R115: the S-box is any chain of multiplications, this one among them. -/
def Obligations.SboxIsAMultiplicationChain : Prop :=
  ∀ a : Word, fpow7 a = fmul (fmul (fmul (fmul a a) (fmul a a)) (fmul a a)) a

/-- R115: the S-box is a bijection of the field, because gcd(7, p - 1) = 1. -/
def Obligations.SboxIsABijection : Prop :=
  ∀ b : Word, isMember b = true → ∃! a : Word, isMember a = true ∧ fpow7 a = b

/-! ### The permutation -/

/-- R132, R133, R135, R136: the lane-wise micro-operations: what they write in each lane, and that they write nothing else. -/
def Obligations.LaneMicroOperations : Prop :=
  ∀ (c : Config) (base : Nat) (d : Datapath),
    (∀ i : Fin 12, (ark c base d).S[i].toNat = (d.S[i].toNat + (c.RC (base + i)).val) % 18446744069414584321) ∧
    (∀ i : Fin 12, (sbox d).S[i].toNat = d.S[i].toNat ^ 7 % 18446744069414584321) ∧
    (sbox0 d).S[0].toNat = d.S[0].toNat ^ 7 % 18446744069414584321 ∧
    (ark0 c base d).S[0].toNat = (d.S[0].toNat + (c.RC base).val) % 18446744069414584321 ∧
    (∀ i : Fin 12, i ≠ 0 → (sbox0 d).S[i] = d.S[i] ∧ (ark0 c base d).S[i] = d.S[i]) ∧
    { ark c base d with S := d.S } = d ∧ { sbox d with S := d.S } = d ∧
    { sbox0 d with S := d.S } = d ∧ { ark0 c base d with S := d.S } = d

/-- R134: MIX is the row vector S times the matrix T, in whatever order the sums are reduced (R119); it writes S and N only. -/
def Obligations.MixIsRowVectorTimesMatrix : Prop :=
  ∀ (T : Fin 12 → Fin 12 → Felt) (d : Datapath),
    (∀ i : Fin 12, (mix T d).S[i].toNat = (∑ j : Fin 12, d.S[j].toNat * (T j i).val) % 18446744069414584321) ∧
    (mix T d).N = (mix T d).S ∧ { mix T d with S := d.S, N := d.N } = d

/-- R138, R287: SPARSE in terms of the lanes it starts from: the new lane 0 is the sum over all old lanes, every other lane
adds a multiple of the pre-update lane 0, T0 holds that pre-update value, N[0] the new lane 0, and nothing else is written.
(The clauses on N are the model's choice, log 11: it follows lines 2 and 4 of R138, where R23 says that N is MIX's alone.) -/
def Obligations.SparseUsesPreUpdateLaneZero : Prop :=
  ∀ (c : Config) (r : Nat) (d : Datapath),
    (sparse c r d).S[0].toNat = (∑ i : Fin 12, (c.SPR (23 * r + i)).val * d.S[i].toNat) % 18446744069414584321 ∧
    (∀ i : Fin 12, i ≠ 0 → (sparse c r d).S[i].toNat =
      (d.S[i].toNat + (c.SPR (23 * r + 12 + (i - 1))).val * d.S[0].toNat) % 18446744069414584321) ∧
    (sparse c r d).T0 = d.S[0] ∧ (sparse c r d).N[0] = (sparse c r d).S[0] ∧
    (∀ i : Fin 12, i ≠ 0 → (sparse c r d).N[i] = d.N[i]) ∧
    { sparse c r d with S := d.S, T0 := d.T0, N := d.N } = d

/-- R137, R139, R140: the micro-operations of each round in their order: the last round of the first half alone uses PRE, the
last round of the second half alone adds no constants, and the constants and coefficients are those of R58 and R60. -/
def Obligations.RoundsFollowTheirRules : Prop :=
  ∀ (c : Config) (r : Nat) (d : Datapath),
    (r < c.Hm1 → (fullRound1 c r d).S = (mix c.MDS (ark c (12 * (r + 1)) (sbox d))).S) ∧
    (r = c.Hm1 → (fullRound1 c r d).S = (mix c.PRE (ark c (12 * (r + 1)) (sbox d))).S) ∧
    (r < c.RP → (partialRound c r d).S = (sparse c r (ark0 c (12 * (c.Hm1 + 2) + r) (sbox0 d))).S) ∧
    (r < c.Hm1 → (fullRound2 c r d).S = (mix c.MDS (ark c (12 * (c.Hm1 + 2) + c.RP + 12 * r) (sbox d))).S) ∧
    (r = c.Hm1 → (fullRound2 c r d).S = (mix c.MDS (sbox d)).S)

/-- R25, R144: the lanes after the schedule depend on the lanes before it and on nothing else of the scratch registers. -/
def Obligations.ScheduleIgnoresScratch : Prop :=
  ∀ (c : Config) (d : Datapath), (runSchedule c d).S = permute c d.S

/-- R58, R60, U14: a permutation reads no table entry outside the table's length: two configurations that agree within the
lengths 12·RF + RP and 23·RP are the same permutation. -/
def Obligations.PermuteReadsTablesWithinLength : Prop :=
  ∀ (c c' : Config) (v : Lanes),
    c.Hm1 = c'.Hm1 → c.RP = c'.RP → c.MDS = c'.MDS → c.PRE = c'.PRE →
    (∀ k < 12 * (2 * (c.Hm1 + 1)) + c.RP, c.RC k = c'.RC k) → (∀ k < 23 * c.RP, c.SPR k = c'.SPR k) →
    permute c v = permute c' v

/-- R145: the small-step sequencer, started at LOAD with any payload and scratch registers, has after 6·(RF/2) + 3·RP + 2 steps
unloaded the lanes of the schedule, stands at IDLE, and has in every scratch register what the schedule leaves; and what it has
then, scratch registers and response, is what PERM answers. (A step is one micro-operation, the load or the unload; the line
inside a round, and RND at UNLOAD, are the model's: log 17. The counters that the schedule leaves are log 6.) -/
def Obligations.SequencerRunsTheSchedule : Prop :=
  ∀ (c : Config) (pay : List Word) (d : Datapath),
    let e := seqRun c (6 * (c.Hm1 + 1) + 3 * c.RP + 2) (seqStart pay d)
    let f := runSchedule c (loadw pay 0 12 { d with PH := .load })
    e.dp = { f with PH := .idle, OCNT := 12 } ∧ e.out = f.S.toList ∧
    ∀ s : State, s.dp = d → s.FLT = false → pay.length = 12 →
      permOn c pay s = .next { s with dp := e.dp, resp := some ⟨0x00000000#32, .words e.out⟩ }

/-- R142: PERM answers Permute of the reduced payload. FLT, FCAUSE and LVL are unchanged, the sequencer is idle. (The counter: log 6.) -/
def Obligations.PermRuns : Prop :=
  ∀ (w : Lanes) (s : State), s.FLT = false →
    ∃ d : Datapath,
      exec (.perm w.toList) s = .next { s with
        dp := d, resp := some ⟨0x00000000#32, .words (permute Config.installed (w.map fred)).toList⟩ } ∧
      d.S = permute Config.installed (w.map fred) ∧ d.PH = .idle ∧ d.LVL = s.dp.LVL

/-! ### The sponge -/

/-- R161, R163, R164: absorption block by block. Nothing absorbed is the all-zero state; after a whole number of blocks, 1 to 8
further elements overwrite the leading lanes, leave the others as they are, and cost one permutation, and nothing more. -/
def Obligations.AbsorbOneBlock : Prop :=
  ∀ (c : Config) (x b : List Word),
    absorbLanes c [] = Vector.replicate 12 0 ∧
    (x.length % 8 = 0 → 1 ≤ b.length → b.length ≤ 8 →
      absorbLanes c (x ++ b) =
        permute c (lanesOf fun i => if i.val < b.length then fred (b.getD i.val 0) else (absorbLanes c x)[i]))

/-- R167, R168: output element t is lane t mod 8 of the state after ⌊t / 8⌋ squeeze permutations, and there are n of them. -/
def Obligations.SqueezeElements : Prop :=
  ∀ (c : Config) (x : List Word) (n : ℕ+),
    (sponge c x n).length = n ∧
    ∀ t : Nat, t < n → (sponge c x n)[t]? = some ((permute c)^[t / 8] (absorbLanes c x))[t % 8]!

/-- R165: absorbing nothing leaves the all-zero state, so the first 8 outputs are zeros under every configuration, and the later
ones come from Permute of the all-zero state. -/
def Obligations.EmptySpongeIsZeros : Prop :=
  ∀ (c : Config) (n : ℕ+),
    absorbLanes c [] = Vector.replicate 12 0 ∧
    (n ≤ 8 → sponge c [] n = List.replicate n 0) ∧
    (8 < n → ∀ t : Nat, t < n →
      (t < 8 → (sponge c [] n)[t]? = some 0#64) ∧
      (8 ≤ t → (sponge c [] n)[t]? = some ((permute c)^[t / 8 - 1] (permute c (Vector.replicate 12 0)))[t % 8]!))

/-- R166: SPONGE n, for every payload and every n ≥ 1, answers Sponge of the reduced payload. (The counter: log 6.) -/
def Obligations.SpongeRuns : Prop :=
  ∀ (n : ℕ+) (pay : List Word) (s : State), s.FLT = false →
    ∃ d : Datapath,
      exec (.sponge n pay) s = .next { s with
        dp := d, resp := some ⟨0x00000000#32, .words (sponge Config.installed (pay.map fred) n)⟩ } ∧
      d.PH = .idle ∧ d.LVL = s.dp.LVL

/-! ### The hash entry points -/

/-- R180, R181: HASHN, for every payload, answers the four limbs of HashNoPad of the reduced payload. (The counter: log 6.) -/
def Obligations.HashnRuns : Prop :=
  ∀ (pay : List Word) (s : State), s.FLT = false →
    ∃ d : Datapath,
      exec (.hashn pay) s = .next { s with
        dp := d, resp := some ⟨0x00000000#32, .words (hashNoPad Config.installed (pay.map fred)).toList⟩ } ∧
      d.PH = .idle ∧ d.LVL = s.dp.LVL

/-- R182: HASHN and SPONGE 4 have the same response for every payload. -/
def Obligations.HashnAnswersAsSpongeFour : Prop :=
  ∀ (pay : List Word) (s : State),
    ∃ t u, exec (.hashn pay) s = .next t ∧ exec (.sponge 4 pay) s = .next u ∧ t.resp = u.resp

/-- R183: the padded sequence: a 1, the input, the fewest zeros that make the length so far a multiple of 12, a 1. -/
def Obligations.PadShape : Prop :=
  ∀ x : List Word, ∃ z : Nat, pad x = [1] ++ x ++ List.replicate z 0 ++ [1] ∧
    z < 12 ∧ (x.length + 1 + z) % 12 = 0 ∧ (pad x).length % 12 = 1

/-- R184, R185: HASHP, for every payload, answers the four limbs of HashNoPad of the padded reduced payload. (The counter: log 6.) -/
def Obligations.HashpRuns : Prop :=
  ∀ (pay : List Word) (s : State), s.FLT = false →
    ∃ d : Datapath,
      exec (.hashp pay) s = .next { s with
        dp := d, resp := some ⟨0x00000000#32, .words (hashNoPad Config.installed (pad (pay.map fred))).toList⟩ } ∧
      d.PH = .idle ∧ d.LVL = s.dp.LVL

/-- R291 (with R168, R185, R198): the permutation calls of each command that makes any, counted by a run in which every schedule
adds one: the run ends as the command does, with the same response and the same scratch registers, and its count is the rule's.
(The counter is no part of the state: log 10.) -/
def Obligations.PermutationCallCounts : Prop :=
  ∀ (c : Config) (pay : List Word) (A B : Digest) (n : ℕ+) (s : State), s.FLT = false →
    (pay.length = 12 →
      let w := (Counted.mk (loadw pay 0 12 { s.dp with PH := .load }) 0).run c
      execUnder c (.perm pay) s = unload 12 w.dp s ∧ w.calls = 1) ∧
    (let r := countedSqueeze c n (countedAbsorb c pay ⟨s.dp, 0⟩);
      execUnder c (.sponge n pay) s = returnOk (.words r.1) r.2.dp s ∧
      r.2.calls + 1 = (pay.length + 7) / 8 + ((n : Nat) + 7) / 8) ∧
    (let w := countedAbsorb c pay ⟨s.dp, 0⟩;
      execUnder c (.hashn pay) s = unload 4 w.dp s ∧ w.calls = (pay.length + 7) / 8) ∧
    (let w := countedAbsorb c (pad (pay.map fred)) ⟨s.dp, 0⟩;
      execUnder c (.hashp pay) s = unload 4 w.dp s ∧ w.calls = (12 * ((pay.length + 1 + 11) / 12) + 1 + 7) / 8) ∧
    (validDigest A = true → validDigest B = true →
      let w := countedCompress c A B ⟨{ s.dp with PH := .load, IPOS := 8 }, 0⟩
      let v := countedLeaf c A B ⟨{ s.dp with PH := .load, IPOS := 8 }, 0⟩
      execUnder c (.comp (A.toList ++ B.toList)) s = unload 4 w.dp s ∧ w.calls = 1 ∧
      execUnder c (.leaf (A.toList ++ B.toList)) s = unload 4 v.dp s ∧ v.calls = 2) ∧
    (let r := countedChain c n ⟨s.dp, 0⟩;
      execUnder c (.zeros n []) s = returnOk (.words (digestWords r.1)) { r.2.dp with OCNT := 4 * n } s ∧
      r.2.calls + 1 = n)

/-! ### The tree layer -/

/-- R191, R194: Compress is one permutation of [A, B, 0, 0, 0, 0]; CompressLeaf is two, with the tag 1, 1, 0, 1 written over the
first four lanes between them. -/
def Obligations.CompressionsByPermutation : Prop :=
  ∀ (c : Config) (A B : Digest),
    let t := permute c #v[A[0], A[1], A[2], A[3], B[0], B[1], B[2], B[3], 0, 0, 0, 0]
    let u := permute c #v[1, 1, 0, 1, t[4], t[5], t[6], t[7], t[8], t[9], t[10], t[11]]
    compress c A B = #v[t[0], t[1], t[2], t[3]] ∧ compressLeaf c A B = #v[u[0], u[1], u[2], u[3]]

/-- R193: Compress of two valid digests is HashNoPad of their eight limbs. -/
def Obligations.CompressIsHashOfEight : Prop :=
  ∀ (c : Config) (A B : Digest), validDigest A = true → validDigest B = true →
    compress c A B = hashNoPad c (A.toList ++ B.toList)

/-- R192, R195: COMP and LEAF, on every two valid digests, answer Compress and CompressLeaf. (The counter: log 6.) -/
def Obligations.TreeCommandsRun : Prop :=
  ∀ (A B : Digest) (s : State), s.FLT = false → validDigest A = true → validDigest B = true →
    (∃ d : Datapath,
      exec (.comp (A.toList ++ B.toList)) s = .next { s with
        dp := d, resp := some ⟨0x00000000#32, .words (compress Config.installed A B).toList⟩ } ∧
      d.PH = .idle ∧ d.LVL = s.dp.LVL) ∧
    (∃ d : Datapath,
      exec (.leaf (A.toList ++ B.toList)) s = .next { s with
        dp := d, resp := some ⟨0x00000000#32, .words (compressLeaf Config.installed A B).toList⟩ } ∧
      d.PH = .idle ∧ d.LVL = s.dp.LVL)

/-- R197, R199: the chain has one digest for each level, the last is all zero, and every other is Compress of the next twice. -/
def Obligations.EmptyChainRecurrence : Prop :=
  ∀ (c : Config) (levels : ℕ+),
    (emptyChain c levels).length = levels ∧
    (emptyChain c levels)[(levels : Nat) - 1]? = some (#v[0, 0, 0, 0] : Digest) ∧
    ∀ i : Nat, i + 1 < levels → ∃ Z, (emptyChain c levels)[i + 1]? = some Z ∧ (emptyChain c levels)[i]? = some (compress c Z Z)

/-- R197: the chain for a smaller depth is a suffix of the chain for a larger one. -/
def Obligations.EmptyChainSuffix : Prop :=
  ∀ (c : Config) (m n : ℕ+), m ≤ n → (emptyChain c n).drop (n - m) = emptyChain c m

/-- R198: ZEROS, for every depth ≥ 1, answers the chain, the level nearest the root first, each digest limb0 first. (The counter: log 6.) -/
def Obligations.ZerosRuns : Prop :=
  ∀ (levels : ℕ+) (s : State), s.FLT = false →
    ∃ d : Datapath,
      exec (.zeros levels []) s = .next { s with
        dp := d
        resp := some ⟨0x00000000#32, .words ((emptyChain Config.installed levels).flatMap fun D => D.toList)⟩ } ∧
      d.PH = .idle ∧ d.IPOS = s.dp.IPOS

/-! ### The digest encoder and decoder -/

/-- R211, R52: byte 8g + t of the encoding is bits [63 - 8t : 56 - 8t] of limb 3 - g, there are 32 bytes, and read big-endian
they are the 256-bit integer limb3·2^192 + limb2·2^128 + limb1·2^64 + limb0. -/
def Obligations.EncodeBytesPositions : Prop :=
  ∀ D : Digest, (encodeBytes D).length = 32 ∧
    (∀ g t : Nat, g < 4 → t < 8 → (encodeBytes D)[8 * g + t]? = some (D[3 - g]!.extractLsb' (56 - 8 * t) 8)) ∧
    bigEndian (encodeBytes D) = D[3].toNat * 2 ^ 192 + D[2].toNat * 2 ^ 128 + D[1].toNat * 2 ^ 64 + D[0].toNat

/-- R214: the decoder by the values of the groups: a wrong length fails first, then a value at or above p; else limb t is the
big-endian value of group 3 - t. -/
def Obligations.DecodeBytesByGroups : Prop :=
  ∀ b : List Byte,
    let v : Nat → Nat := fun t => ∑ u : Fin 8, (b.getD (8 * (3 - t) + u.val) 0).toNat * 256 ^ (7 - u.val)
    (b.length ≠ 32 → decodeBytes b = .error .length) ∧
    (b.length = 32 → (∃ t < 4, 18446744069414584321 ≤ v t) → decodeBytes b = .error .range) ∧
    (b.length = 32 → (∀ t < 4, v t < 18446744069414584321) →
      ∃ D : Digest, decodeBytes b = .ok D ∧ ∀ t : Fin 4, D[t].toNat = v t)

/-- R216: decoding the encoding of a valid digest reproduces it, and encoding what a buffer decodes to reproduces the buffer. -/
def Obligations.BinaryRoundTrip : Prop :=
  (∀ D : Digest, validDigest D = true → decodeBytes (encodeBytes D) = .ok D) ∧
  (∀ (b : List Byte) (D : Digest), decodeBytes b = .ok D → encodeBytes D = b)

/-- R217: character 2j and 2j + 1 of the text are the digits of byte j, high nibble first, from 0123456789abcdef. -/
def Obligations.EncodeHexDigits : Prop :=
  ∀ D : Digest, (encodeHex D).length = 64 ∧
    ∀ j : Nat, j < 32 → ∃ b, (encodeBytes D)[j]? = some b ∧
      (encodeHex D)[2 * j]? = ("0123456789abcdef".toList.map fun ch => BitVec.ofNat 8 ch.toNat)[b.toNat / 16]? ∧
      (encodeHex D)[2 * j + 1]? = ("0123456789abcdef".toList.map fun ch => BitVec.ofNat 8 ch.toNat)[b.toNat % 16]?

/-- R221: text decoding: one leading 0x is stripped; an odd number of digits or a character that is no digit is malformed text;
else the digits pair into bytes, high nibble first, and the bytes are decoded by R214. -/
def Obligations.DecodeHexByDigits : Prop :=
  ∀ t h : List Byte,
    (t = 0x30#8 :: 0x78#8 :: h ∨ (t = h ∧ ¬ ∃ rest, t = 0x30#8 :: 0x78#8 :: rest)) →
    let digit : Byte → Prop := fun ch =>
      (0x30 ≤ ch.toNat ∧ ch.toNat ≤ 0x39) ∨ (0x61 ≤ ch.toNat ∧ ch.toNat ≤ 0x66) ∨ (0x41 ≤ ch.toNat ∧ ch.toNat ≤ 0x46)
    let val : Byte → Nat := fun ch =>
      if ch.toNat ≤ 0x39 then ch.toNat - 0x30 else if ch.toNat ≤ 0x46 then ch.toNat - 0x41 + 10 else ch.toNat - 0x61 + 10
    ((h.length % 2 = 1 ∨ ∃ ch ∈ h, ¬ digit ch) → decodeHex t = .error .text) ∧
    (h.length % 2 = 0 → (∀ ch ∈ h, digit ch) →
      ∀ b : List Byte, b.length = h.length / 2 →
        (∀ j < b.length, (b.getD j 0).toNat = 16 * val (h.getD (2 * j) 0) + val (h.getD (2 * j + 1) 0)) →
        decodeHex t = decodeBytes b)

/-- R223: decoding the text of a valid digest reproduces it; a text that decodes is spelled again without its prefix and in
lower case. -/
def Obligations.TextRoundTrip : Prop :=
  (∀ D : Digest, validDigest D = true → decodeHex (encodeHex D) = .ok D) ∧
  (∀ (t : List Byte) (D : Digest), decodeHex t = .ok D →
    ∃ h : List Byte, (t = 0x30#8 :: 0x78#8 :: h ∨ (t = h ∧ ¬ ∃ rest, t = 0x30#8 :: 0x78#8 :: rest)) ∧
      encodeHex D = h.map fun ch => if 0x41 ≤ ch.toNat ∧ ch.toNat ≤ 0x46 then ch + 0x20#8 else ch)

/-- R212, R218: ENCB and ENCH, on every valid digest, answer its bytes and its text; they change nothing else. -/
def Obligations.EncodersRun : Prop :=
  ∀ (D : Digest) (s : State), s.FLT = false → validDigest D = true →
    exec (.encb D.toList) s = .next { s with resp := some ⟨0x00000000#32, .bytes (encodeBytes D)⟩ } ∧
    exec (.ench D.toList) s = .next { s with resp := some ⟨0x00000000#32, .bytes (encodeHex D)⟩ }

/-- R215, R222: DECB and DECH, on every payload that decodes, answer the digest, limb0 first; they change nothing else. -/
def Obligations.DecodersRun : Prop :=
  ∀ (pay : List Byte) (D : Digest) (s : State), s.FLT = false →
    (decodeBytes pay = .ok D →
      exec (.decb pay) s = .next { s with resp := some ⟨0x00000000#32, .words [D[0], D[1], D[2], D[3]]⟩ }) ∧
    (decodeHex pay = .ok D →
      exec (.dech pay) s = .next { s with resp := some ⟨0x00000000#32, .words [D[0], D[1], D[2], D[3]]⟩ })

/-- R215, R222, R242: DECB and DECH, on every payload that does not decode, answer the code of the failure; nothing else changes.
(The scratch registers: R25, the decoders touch none of them; log 13 for typed errors in general, where R246 lets them change.) -/
def Obligations.DecodersReportFailures : Prop :=
  ∀ (pay : List Byte) (s : State), s.FLT = false →
    let t : BitVec 32 → State := fun stat => { s with resp := some ⟨stat, .words []⟩ }
    (decodeBytes pay = .error .length → exec (.decb pay) s = .next (t 0x00000001#32)) ∧
    (decodeBytes pay = .error .range → exec (.decb pay) s = .next (t 0x00000002#32)) ∧
    (decodeHex pay = .error .length → exec (.dech pay) s = .next (t 0x00000001#32)) ∧
    (decodeHex pay = .error .range → exec (.dech pay) s = .next (t 0x00000002#32)) ∧
    (decodeHex pay = .error .text → exec (.dech pay) s = .next (t 0x00000003#32))
end

