-- ==== Sys2Proof/Laws/Decode.lean ====
section
/-! SUPPORT. The fields of a command word, and the payload of a framed request. -/

namespace Sys2Proof

/-- Bit `i` of a command word: a bit of the opcode below 8, a bit of the argument above. -/
theorem getLsbD_cmdWord (arg : Nat) (opc : BitVec 8) (i : Nat) :
    (cmdWord arg opc).getLsbD i = if i < 8 then opc.getLsbD i else (BitVec.ofNat 24 arg).getLsbD (i - 8) :=
  BitVec.getLsbD_append

@[simp] theorem opcOf_cmdWord (arg : Nat) (opc : BitVec 8) : opcOf (cmdWord arg opc) = opc := by
  apply BitVec.eq_of_getLsbD_eq
  intro i hi
  simp [opcOf, getLsbD_cmdWord, hi]

theorem argField_cmdWord (arg : Nat) (opc : BitVec 8) : (cmdWord arg opc).extractLsb' 8 24 = BitVec.ofNat 24 arg := by
  apply BitVec.eq_of_getLsbD_eq
  intro i hi
  simp only [BitVec.getLsbD_extractLsb', getLsbD_cmdWord, hi, decide_true, Bool.true_and,
    if_neg (show ¬ 8 + i < 8 by omega), Nat.add_sub_cancel_left]

theorem argOf_cmdWord {arg : Nat} (h : arg < argLimit) (opc : BitVec 8) : argOf (cmdWord arg opc) = arg := by
  rw [argOf, argField_cmdWord, BitVec.toNat_ofNat, Nat.mod_eq_of_lt h]

/-- A command word is its argument and its opcode. -/
theorem cmdWord_argOf_opcOf (cmd : BitVec 32) : cmdWord (argOf cmd) (opcOf cmd) = cmd := by
  apply BitVec.eq_of_getLsbD_eq
  intro i hi
  rw [getLsbD_cmdWord, argOf, BitVec.ofNat_toNat, BitVec.setWidth_eq, opcOf]
  by_cases h : i < 8
  · simp [h]
  · simp [h, show i - 8 < 24 by omega, Nat.add_sub_cancel' (Nat.le_of_not_lt h)]

theorem argOf_lt (cmd : BitVec 32) : argOf cmd < argLimit := (cmd.extractLsb' 8 24).isLt

/-- Setting a width that a unit already has changes nothing. -/
theorem map_setWidth_self {w v : Nat} (h : v = w) (pay : List (BitVec w)) :
    (pay.map (BitVec.setWidth v)).map (BitVec.setWidth w) = pay := by
  subst h
  rw [List.map_map]
  exact (List.map_congr_left fun x _ => by simp).trans (List.map_id pay)

end Sys2Proof
end

