-- ==== Sys2Proof/Laws/Field.lean ====
section
/-! SUPPORT. The value of each field primitive, and reading a lane of a lane file built lane by lane. -/

namespace Sys2Proof.Machine

theorem residue_lt (n : Nat) : n % modulus < 2 ^ 64 :=
  lt_trans (Nat.mod_lt n (by decide)) (by decide)

@[simp] theorem toNat_ofResidue (n : Nat) : (ofResidue n).toNat = n % modulus := by
  simpa [ofResidue] using Nat.mod_eq_of_lt (residue_lt n)

theorem ofResidue_lt (n : Nat) : (ofResidue n).toNat < modulus := by
  rw [toNat_ofResidue]; exact Nat.mod_lt n (by decide)

/-- A residue depends on the number modulo p only. -/
theorem ofResidue_mod (n : Nat) : ofResidue (n % modulus) = ofResidue n := by
  simp [ofResidue]

theorem fred_toNat (v : Word) : (fred v).toNat = v.toNat % modulus := toNat_ofResidue _

theorem fadd_toNat (a b : Word) : (fadd a b).toNat = (a.toNat + b.toNat) % modulus := toNat_ofResidue _

theorem fmul_toNat (a b : Word) : (fmul a b).toNat = (a.toNat * b.toNat) % modulus := toNat_ofResidue _

theorem fpow7_toNat (a : Word) : (fpow7 a).toNat = a.toNat ^ 7 % modulus := toNat_ofResidue _

@[simp] theorem feltWord_toNat (x : Felt) : (feltWord x).toNat = x.val := by
  simpa [feltWord] using Nat.mod_eq_of_lt (lt_trans x.isLt (by decide : modulus < 2 ^ 64))

/-- A canonical word is its own reduction. -/
theorem fred_of_canonical {v : Word} (h : v.toNat < modulus) : fred v = v := by
  apply BitVec.eq_of_toNat_eq; rw [fred_toNat, Nat.mod_eq_of_lt h]

@[simp] theorem fred_fred (v : Word) : fred (fred v) = fred v := fred_of_canonical (ofResidue_lt _)

@[simp] theorem isMember_iff (v : Word) : isMember v = true ↔ v.toNat < modulus := by simp [isMember]

/-- Lane `i` of a lane file built lane by lane. -/
@[simp] theorem lanesOf_getElem (f : Fin 12 → Word) (i : Nat) (h : i < 12) : (lanesOf f)[i] = f ⟨i, h⟩ := by
  interval_cases i <;> rfl

/-- A lane file is the lane file of its lanes. -/
@[simp] theorem lanesOf_lanes (v : Lanes) : (lanesOf fun i => v[i]) = v := by
  apply Vector.ext; intro i h; simp

end Sys2Proof.Machine
end

