-- ==== Sys2Proof/Laws/Meanings.lean ====
section
/-! SUPPORT. The meaning of each command as one expression over the shared operations, and what a step finds for each event:
later proofs rewrite with these and unfold neither `exec` nor `fetch`. -/

namespace Sys2Proof.Machine

open Config (installed)

theorem exec_perm (pay : List Word) (s : State) : exec (.perm pay) s =
    accept s (requireWidth 12 pay fun s => unload 12 (runSchedule installed (loadw pay 0 12 { s.dp with PH := .load })) s) := rfl

theorem exec_sponge (n : Nat) (pay : List Word) (s : State) : exec (.sponge n pay) s =
    accept s fun s =>
      if n = 0 then raiseFault .count s
      else returnOk (.words (squeeze installed n (absorb installed pay s.dp)).1) (squeeze installed n (absorb installed pay s.dp)).2 s :=
  rfl

theorem exec_hashn (pay : List Word) (s : State) : exec (.hashn pay) s =
    accept s fun s => unload 4 (absorb installed pay s.dp) s := rfl

theorem exec_hashp (pay : List Word) (s : State) : exec (.hashp pay) s =
    accept s fun s => unload 4 (absorb installed (pad (pay.map fred)) s.dp) s := rfl

theorem exec_comp (pay : List Word) (s : State) : exec (.comp pay) s =
    accept s (requireWidth 8 pay (requireLimbs pay fun s =>
      unload 4 (compressRun installed (digestAt pay 0) (digestAt pay 4) { s.dp with PH := .load, IPOS := 8 }) s)) := rfl

theorem exec_leaf (pay : List Word) (s : State) : exec (.leaf pay) s =
    accept s (requireWidth 8 pay (requireLimbs pay fun s =>
      unload 4 (leafRun installed (digestAt pay 0) (digestAt pay 4) { s.dp with PH := .load, IPOS := 8 }) s)) := rfl

theorem exec_zeros (levels : Nat) (pay : List Word) (s : State) : exec (.zeros levels pay) s =
    accept s (requireWidth 0 pay fun s =>
      if levels = 0 then raiseFault .levels s
      else returnOk (.words (digestWords (chainRun installed levels s.dp).1))
        { (chainRun installed levels s.dp).2 with OCNT := 4 * levels } s) := rfl

theorem exec_encb (pay : List Word) (s : State) : exec (.encb pay) s =
    accept s (requireWidth 4 pay (requireLimbs pay fun s => returnOkUntouched (.bytes (encodeBytes (digestAt pay 0))) s)) := rfl

theorem exec_decb (pay : List Byte) (s : State) : exec (.decb pay) s = accept s (returnDecoded (decodeBytes pay)) := rfl

theorem exec_ench (pay : List Word) (s : State) : exec (.ench pay) s =
    accept s (requireWidth 4 pay (requireLimbs pay fun s => returnOkUntouched (.bytes (encodeHex (digestAt pay 0))) s)) := rfl

theorem exec_dech (pay : List Byte) (s : State) : exec (.dech pay) s = accept s (returnDecoded (decodeHex pay)) := rfl

theorem fetch_nothing {s : State} (h : s.inbox = []) : fetch s = .quiet (s.deliver []) := by rw [fetch, h]

theorem fetch_reset {s : State} {rest : List HostEvent} (h : s.inbox = .reset :: rest) :
    fetch s = .quiet (s.deliver rest).takeReset := by rw [fetch, h]

theorem fetch_request {s : State} {r : Request} {rest : List HostEvent} (h : s.inbox = .request r :: rest) :
    fetch s = .command r (s.deliver rest) := by rw [fetch, h]

end Sys2Proof.Machine
end

