-- ==== Sys2Proof/Laws/State.lean ====
section
/-! SUPPORT. Each field after each update of the state: no later proof unfolds a record update. -/

namespace Sys2Proof.Machine

section respond
variable (s : State) (stat : BitVec 32) (out : Payload)
@[simp] theorem respond_dp : (s.respond stat out).dp = s.dp := rfl
@[simp] theorem respond_FLT : (s.respond stat out).FLT = s.FLT := rfl
@[simp] theorem respond_FCAUSE : (s.respond stat out).FCAUSE = s.FCAUSE := rfl
@[simp] theorem respond_inbox : (s.respond stat out).inbox = s.inbox := rfl
@[simp] theorem respond_resp : (s.respond stat out).resp = some ⟨stat, out⟩ := rfl
end respond

section refuseHalted
variable (s : State)
@[simp] theorem refuseHalted_dp : s.refuseHalted.dp = s.dp := rfl
@[simp] theorem refuseHalted_FLT : s.refuseHalted.FLT = s.FLT := rfl
@[simp] theorem refuseHalted_FCAUSE : s.refuseHalted.FCAUSE = s.FCAUSE := rfl
@[simp] theorem refuseHalted_inbox : s.refuseHalted.inbox = s.inbox := rfl
@[simp] theorem refuseHalted_resp : s.refuseHalted.resp = some ⟨statusWord s.FCAUSE haltedCode, emptyPayload⟩ := rfl
end refuseHalted

section latchFault
variable (s : State) (cause : FaultCause)
@[simp] theorem latchFault_dp : (s.latchFault cause).dp = s.dp := rfl
@[simp] theorem latchFault_FLT : (s.latchFault cause).FLT = true := rfl
@[simp] theorem latchFault_FCAUSE : (s.latchFault cause).FCAUSE = cause.code := rfl
@[simp] theorem latchFault_inbox : (s.latchFault cause).inbox = s.inbox := rfl
@[simp] theorem latchFault_resp : (s.latchFault cause).resp = s.resp := rfl
end latchFault

section deliver
variable (s : State) (rest : List HostEvent)
@[simp] theorem deliver_dp : (s.deliver rest).dp = s.dp := rfl
@[simp] theorem deliver_FLT : (s.deliver rest).FLT = s.FLT := rfl
@[simp] theorem deliver_FCAUSE : (s.deliver rest).FCAUSE = s.FCAUSE := rfl
@[simp] theorem deliver_inbox : (s.deliver rest).inbox = rest := rfl
@[simp] theorem deliver_resp : (s.deliver rest).resp = none := rfl
end deliver

section takeReset
variable (s : State)
@[simp] theorem takeReset_dp : s.takeReset.dp = Datapath.reset := rfl
@[simp] theorem takeReset_FLT : s.takeReset.FLT = false := rfl
@[simp] theorem takeReset_FCAUSE : s.takeReset.FCAUSE = 0#8 := rfl
@[simp] theorem takeReset_inbox : s.takeReset.inbox = s.inbox := rfl
@[simp] theorem takeReset_resp : s.takeReset.resp = none := rfl
end takeReset

end Sys2Proof.Machine
end

