-- ==== Sys2Proof/Laws/Ops.lean ====
section
/-! SUPPORT. What each shared operation can do, and from it what one command can do: one of four endings. -/

namespace Sys2Proof.Machine

theorem accept_running {s : State} (h : s.FLT = false) (run : State → Result) : accept s run = run s := by
  simp [accept, h]

theorem accept_halted {s : State} (h : s.FLT = true) (run : State → Result) : accept s run = .next s.refuseHalted := by
  simp [accept, h]

theorem requireWidth_met {k : Nat} {pay : List Word} (h : pay.length = k) (run : State → Result) (s : State) :
    requireWidth k pay run s = run s := by simp [requireWidth, h]

theorem requireWidth_failed {k : Nat} {pay : List Word} (h : pay.length ≠ k) (run : State → Result) (s : State) :
    requireWidth k pay run s = raiseFault .width s := by simp [requireWidth, h]

theorem requireLimbs_met {pay : List Word} (h : ∀ w ∈ pay, w.toNat < modulus) (run : State → Result) (s : State) :
    requireLimbs pay run s = run s := by
  have : pay.all isMember = true := by simpa [isMember] using h
  rw [requireLimbs, if_pos this]

theorem requireLimbs_failed {pay : List Word} (h : ∃ w ∈ pay, modulus ≤ w.toNat) (run : State → Result) (s : State) :
    requireLimbs pay run s = raiseError .range s := by
  have : ¬ pay.all isMember = true := by simpa [isMember] using h
  rw [requireLimbs, if_neg this]

/-- The endings of a command from a state: the halted refusal, a fault, a typed error, or OK with what it wrote. -/
inductive Ended (s : State) : State → Prop where
  | halted (h : s.FLT = true) : Ended s s.refuseHalted
  | fault (h : s.FLT = false) (cause : FaultCause) :
      Ended s ((s.latchFault cause).respond (statusWord 0 cause.code) emptyPayload)
  | error (h : s.FLT = false) (e : TypedError) : Ended s (s.respond (statusWord 0 e.code) emptyPayload)
  | ok (h : s.FLT = false) (d : Datapath) (hd : d = s.dp ∨ d.PH = .idle) (out : Payload) :
      Ended s ({ s with dp := d }.respond (statusWord 0 okCode) out)

/-- The result is a next state that ends the command begun in `s`. -/
def EndsIn (s : State) (r : Result) : Prop := ∃ t, r = .next t ∧ Ended s t

theorem raiseFault_ends {s : State} (h : s.FLT = false) (cause : FaultCause) : EndsIn s (raiseFault cause s) :=
  ⟨_, rfl, .fault h cause⟩

theorem raiseError_ends {s : State} (h : s.FLT = false) (e : TypedError) : EndsIn s (raiseError e s) :=
  ⟨_, rfl, .error h e⟩

theorem returnOk_ends {s : State} (h : s.FLT = false) (out : Payload) (d : Datapath) : EndsIn s (returnOk out d s) :=
  ⟨_, rfl, .ok h { d with PH := .idle } (.inr rfl) out⟩

theorem returnOkUntouched_ends {s : State} (h : s.FLT = false) (out : Payload) : EndsIn s (returnOkUntouched out s) :=
  ⟨_, rfl, .ok h s.dp (.inl rfl) out⟩

theorem accept_ends (s : State) (run : State → Result) (h : s.FLT = false → EndsIn s (run s)) :
    EndsIn s (accept s run) := by
  cases hs : s.FLT with
  | true => exact ⟨_, accept_halted hs run, .halted hs⟩
  | false => rw [accept_running hs]; exact h hs

theorem requireWidth_ends {s : State} (h : s.FLT = false) (k : Nat) (pay : List Word) (run : State → Result)
    (hr : EndsIn s (run s)) : EndsIn s (requireWidth k pay run s) := by
  unfold requireWidth; split
  · exact hr
  · exact raiseFault_ends h _

theorem requireLimbs_ends {s : State} (h : s.FLT = false) (pay : List Word) (run : State → Result)
    (hr : EndsIn s (run s)) : EndsIn s (requireLimbs pay run s) := by
  unfold requireLimbs; split
  · exact hr
  · exact raiseError_ends h _

theorem returnDecoded_ends {s : State} (h : s.FLT = false) (r : Except TypedError Digest) : EndsIn s (returnDecoded r s) := by
  cases r with
  | error e => exact raiseError_ends h e
  | ok D => exact returnOkUntouched_ends h _

/-- The machine's `exec` is the parametric one at the installed configuration. -/
theorem exec_eq_execUnder (i : Instr) (s : State) : exec i s = execUnder Config.installed i s := by
  cases i <;> rfl

/-- The machine's `step` is the parametric one at the installed configuration. -/
theorem step_eq_stepUnder (s : State) : step s = stepUnder Config.installed s := by
  unfold step stepUnder
  cases fetch s with
  | quiet t => rfl
  | command r t => cases hd : decode r <;> simp only [hd, exec_eq_execUnder]

theorem unload_ends {s : State} (h : s.FLT = false) (g : Nat) (d : Datapath) : EndsIn s (unload g d s) :=
  returnOk_ends h _ _

theorem withTwoDigests_ends (s : State) (pay : List Word) (run : Digest → Digest → Datapath → State → Result)
    (hr : ∀ A B d, s.FLT = false → EndsIn s (run A B d s)) : EndsIn s (withTwoDigests pay run s) :=
  accept_ends _ _ fun h => requireWidth_ends h _ _ _ (requireLimbs_ends h _ _ (hr _ _ _ h))

theorem withDigest_ends (s : State) (pay : List Word) (run : Digest → State → Result)
    (hr : ∀ D, s.FLT = false → EndsIn s (run D s)) : EndsIn s (withDigest pay run s) :=
  accept_ends _ _ fun h => requireWidth_ends h _ _ _ (requireLimbs_ends h _ _ (hr _ h))

/-- A command, under any configuration, ends in one of the four ways. -/
theorem execUnder_ends (c : Config) (i : Instr) (s : State) : EndsIn s (execUnder c i s) := by
  cases i with
  | perm pay =>
    unfold execUnder permOn
    exact accept_ends _ _ fun h => requireWidth_ends h _ _ _ (unload_ends h _ _)
  | sponge n pay =>
    unfold execUnder spongeOn
    refine accept_ends _ _ fun h => ?_
    split
    · exact raiseFault_ends h _
    · exact returnOk_ends h _ _
  | hashn pay => unfold execUnder hashnOn; exact accept_ends _ _ fun h => unload_ends h _ _
  | hashp pay => unfold execUnder hashpOn; exact accept_ends _ _ fun h => unload_ends h _ _
  | comp pay => unfold execUnder compOn; exact withTwoDigests_ends _ _ _ fun _ _ _ h => unload_ends h _ _
  | leaf pay => unfold execUnder leafOn; exact withTwoDigests_ends _ _ _ fun _ _ _ h => unload_ends h _ _
  | zeros levels pay =>
    unfold execUnder zerosOn
    refine accept_ends _ _ fun h => requireWidth_ends h _ _ _ ?_
    split
    · exact raiseFault_ends h _
    · exact returnOk_ends h _ _
  | encb pay => unfold execUnder execEncb; exact withDigest_ends _ _ _ fun _ h => returnOkUntouched_ends h _
  | decb pay => unfold execUnder execDecb; exact accept_ends _ _ fun h => returnDecoded_ends h _
  | ench pay => unfold execUnder execEnch; exact withDigest_ends _ _ _ fun _ h => returnOkUntouched_ends h _
  | dech pay => unfold execUnder execDech; exact accept_ends _ _ fun h => returnDecoded_ends h _

/-- A request that is no command ends in one of the four ways. -/
theorem rejectRequest_ends (s : State) : EndsIn s (rejectRequest s) :=
  accept_ends _ _ fun h => raiseFault_ends h _

/-- What one step can do: wait, reset, or end one command. -/
theorem step_cases (s : State) :
    (s.inbox = [] ∧ step s = .next (s.deliver [])) ∨
    (∃ rest, s.inbox = .reset :: rest ∧ step s = .next (s.deliver rest).takeReset) ∨
    (∃ r rest, s.inbox = .request r :: rest ∧ EndsIn (s.deliver rest) (step s)) := by
  match h : s.inbox with
  | [] => exact .inl ⟨rfl, by simp [step, fetch, h]⟩
  | .reset :: rest => exact .inr (.inl ⟨rest, rfl, by simp [step, fetch, h]⟩)
  | .request r :: rest =>
    refine .inr (.inr ⟨r, rest, rfl, ?_⟩)
    have e : fetch s = .command r (s.deliver rest) := by simp [fetch, h]
    unfold step
    rw [e]
    cases hd : decode r with
    | error _ => simpa only [hd] using rejectRequest_ends (s.deliver rest)
    | ok i => simpa only [hd, exec_eq_execUnder] using execUnder_ends Config.installed i (s.deliver rest)

end Sys2Proof.Machine
end

