-- ==== Sys2Proof/Laws/PerInstr.lean ====
section
/-! SUPPORT. The family `CommandWord` (LAWS.json): the command word that `encode` gives a command carries its opcode in bits
[7:0] and, when well formed, its argument in bits [31:8] (spec/30_encoding.md R81). -/

namespace Sys2Proof.Laws.CommandWord

/-- What is said of one command. -/
def Statement (i : Instr) : Prop :=
  opcOf (encode i).cmd = i.opcode ∧ (i.wf = true → argOf (encode i).cmd = i.arg)

theorem noArgument (opc : BitVec 8) : opcOf (cmdWord 0 opc) = opc ∧ (true = true → argOf (cmdWord 0 opc) = 0) :=
  ⟨opcOf_cmdWord 0 opc, fun _ => argOf_cmdWord (by decide) opc⟩

theorem withArgument (n : Nat) (opc : BitVec 8) :
    opcOf (cmdWord n opc) = opc ∧ (decide (n < argLimit) = true → argOf (cmdWord n opc) = n) :=
  ⟨opcOf_cmdWord n opc, fun h => argOf_cmdWord (of_decide_eq_true h) opc⟩

theorem perm (pay : List Word) : Statement (.perm pay) := noArgument 0x01
theorem sponge (n : Nat) (pay : List Word) : Statement (.sponge n pay) := withArgument n 0x02
theorem hashn (pay : List Word) : Statement (.hashn pay) := noArgument 0x03
theorem hashp (pay : List Word) : Statement (.hashp pay) := noArgument 0x04
theorem comp (pay : List Word) : Statement (.comp pay) := noArgument 0x05
theorem leaf (pay : List Word) : Statement (.leaf pay) := noArgument 0x06
theorem zeros (levels : Nat) (pay : List Word) : Statement (.zeros levels pay) := withArgument levels 0x07
theorem encb (pay : List Word) : Statement (.encb pay) := noArgument 0x08
theorem decb (pay : List Byte) : Statement (.decb pay) := noArgument 0x09
theorem ench (pay : List Word) : Statement (.ench pay) := noArgument 0x0A
theorem dech (pay : List Byte) : Statement (.dech pay) := noArgument 0x0B

end Sys2Proof.Laws.CommandWord
end

