-- ==== Sys2Proof/Laws/Permutation.lean ====
section
/-! SUPPORT. Loops, which words the datapath leaves canonical, and which counters a schedule leaves alone or
never reads, and the two readings of SPARSE's buffer (R23, R138) told apart and joined. -/

namespace Sys2Proof.Machine

/-- What holds at the start and is kept by every round holds at the end. -/
theorem loop_keeps {α : Type} (P : α → Prop) {n : Nat} {body : Nat → α → α} {a : α} (start : P a)
    (round : ∀ r < n, ∀ b, P b → P (body r b)) : P (loop n body a) := by
  induction n with
  | zero => exact start
  | succ n ih => exact round n (Nat.lt_succ_self n) _ (ih fun r hr => round r (Nat.lt_succ_of_lt hr))

/-- Two loops whose rounds keep a relation end related. -/
theorem loop_related {α β : Type} (R : α → β → Prop) {n : Nat} {f : Nat → α → α} {g : Nat → β → β} {a : α} {b : β}
    (start : R a b) (round : ∀ r < n, ∀ x y, R x y → R (f r x) (g r y)) : R (loop n f a) (loop n g b) := by
  induction n with
  | zero => exact start
  | succ n ih => exact round n (Nat.lt_succ_self n) _ _ (ih fun r hr => round r (Nat.lt_succ_of_lt hr))

/-- A loop whose rounds leave a quantity alone leaves it alone. -/
theorem loop_frame {α γ : Type} (get : α → γ) (n : Nat) {body : Nat → α → α} (round : ∀ r b, get (body r b) = get b) (a : α) :
    get (loop n body a) = get a :=
  loop_keeps (fun b => get b = get a) rfl fun r _ b hb => (round r b).trans hb

theorem fadd_lt (a b : Word) : (fadd a b).toNat < modulus := ofResidue_lt _
theorem fmul_lt (a b : Word) : (fmul a b).toNat < modulus := ofResidue_lt _
theorem fpow7_lt (a : Word) : (fpow7 a).toNat < modulus := ofResidue_lt _
theorem fred_lt (a : Word) : (fred a).toNat < modulus := ofResidue_lt _

/-- A sum over the lanes is a normalised result: its last operation is an addition. -/
theorem fsum_lt (f : Fin 12 → Word) : (fsum f).toNat < modulus := by
  unfold fsum
  rw [show List.finRange 12 = (List.finRange 11).map Fin.castSucc ++ [Fin.last 11] from by decide, List.foldl_append]
  exact fadd_lt _ _

/-- The lanes after `LOADW`: reduced payload words below the count, the old lanes above it. -/
theorem loadw_S (x : List Word) (off cnt : Nat) (d : Datapath) :
    (loadw x off cnt d).S = lanesOf fun i => if i.val < cnt then fred (x.getD (off + i.val) 0) else d.S[i] := rfl

/-- The lanes after the tag of a leaf. -/
theorem tagLeaf_S (d : Datapath) :
    (tagLeaf d).S = (#v[1, 1, 0, 1, d.S[4], d.S[5], d.S[6], d.S[7], d.S[8], d.S[9], d.S[10], d.S[11]] : Lanes) := rfl

/-- A quantity that the initial addition and the three round kinds leave alone, a schedule leaves alone. -/
theorem runSchedule_frame {γ : Type} (get : Datapath → γ) (c : Config) (d : Datapath)
    (start : get (ark c 0 { d with PH := .arkInit }) = get d) (first : ∀ r e, get (fullRound1 c r e) = get e)
    (middle : ∀ r e, get (partialRound c r e) = get e) (last : ∀ r e, get (fullRound2 c r e) = get e) :
    get (runSchedule c d) = get d := by
  unfold runSchedule
  rw [loop_frame get c.H last, loop_frame get c.RP middle, loop_frame get c.H first, start]

theorem closingConstants_LVL (c : Config) (r : Nat) (d : Datapath) : (closingConstants c r d).LVL = d.LVL := by
  unfold closingConstants; split <;> rfl

theorem closingConstants_IPOS (c : Config) (r : Nat) (d : Datapath) : (closingConstants c r d).IPOS = d.IPOS := by
  unfold closingConstants; split <;> rfl

/-- A schedule leaves the level index alone. -/
theorem runSchedule_LVL (c : Config) (d : Datapath) : (runSchedule c d).LVL = d.LVL :=
  runSchedule_frame Datapath.LVL c d rfl (fun _ _ => rfl) (fun _ _ => rfl) fun _ _ => closingConstants_LVL c _ _

/-- A schedule leaves the input position alone. -/
theorem runSchedule_IPOS (c : Config) (d : Datapath) : (runSchedule c d).IPOS = d.IPOS :=
  runSchedule_frame Datapath.IPOS c d rfl (fun _ _ => rfl) (fun _ _ => rfl) fun _ _ => closingConstants_IPOS c _ _

theorem closingConstants_setOCNT (c : Config) (r n : Nat) (d : Datapath) :
    closingConstants c r { d with OCNT := n } = { closingConstants c r d with OCNT := n } := by
  unfold closingConstants; split <;> rfl

theorem fullRound1_setOCNT (c : Config) (r n : Nat) (d : Datapath) :
    fullRound1 c r { d with OCNT := n } = { fullRound1 c r d with OCNT := n } := rfl

theorem partialRound_setOCNT (c : Config) (r n : Nat) (d : Datapath) :
    partialRound c r { d with OCNT := n } = { partialRound c r d with OCNT := n } := rfl

theorem fullRound2_setOCNT (c : Config) (r n : Nat) (d : Datapath) :
    fullRound2 c r { d with OCNT := n } = { fullRound2 c r d with OCNT := n } :=
  congrArg (mix c.MDS) (closingConstants_setOCNT c r n (sbox (enterRound .full2 r d)))

/-- A loop whose rounds commute with a change commutes with it. -/
theorem loop_comm {α : Type} (change : α → α) (n : Nat) {body : Nat → α → α}
    (round : ∀ r a, body r (change a) = change (body r a)) (a : α) : loop n body (change a) = change (loop n body a) :=
  loop_related (fun x y => x = change y) rfl fun r _ _ y h => (congrArg (body r) h).trans (round r y)

/-- A schedule neither reads nor writes the output count: setting it first or last is the same. -/
theorem runSchedule_setOCNT (c : Config) (n : Nat) (d : Datapath) :
    runSchedule c { d with OCNT := n } = { runSchedule c d with OCNT := n } := by
  have start : ark c 0 { { d with OCNT := n } with PH := .arkInit } = { ark c 0 { d with PH := .arkInit } with OCNT := n } := rfl
  let change : Datapath → Datapath := fun e => { e with OCNT := n }
  unfold runSchedule
  rw [start]
  exact (congrArg (fun e => loop c.H (fullRound2 c) (loop c.RP (partialRound c) e))
      (loop_comm change c.H (fun r => fullRound1_setOCNT c r n) _)).trans
    ((congrArg (loop c.H (fullRound2 c)) (loop_comm change c.RP (fun r => partialRound_setOCNT c r n) _)).trans
      (loop_comm change c.H (fun r => fullRound2_setOCNT c r n) _))

/-- R23: with the new lane 0 in a temporary of its own, SPARSE neither writes N ... -/
theorem sparseApart_N (c : Config) (r : Nat) (d : Datapath) : (sparseApart c r d).N = d.N := rfl

/-- ... nor reads it. -/
theorem sparseApart_setN (c : Config) (r : Nat) (n : Lanes) (d : Datapath) :
    sparseApart c r { d with N := n } = { sparseApart c r d with N := n } := rfl

/-- R138's SPARSE is R23's in every register but N. -/
theorem sparse_eq_sparseApart (c : Config) (r : Nat) (d : Datapath) :
    sparse c r d = { sparseApart c r d with N := (sparse c r d).N } := by
  have lanes : (sparse c r d).S = (sparseApart c r d).S := by
    apply Vector.ext
    intro i hi
    by_cases i = 0 <;> simp_all [sparse, sparseApart, lanesOf]
  exact congrArg (fun v => ({ sparse c r d with S := v } : Datapath)) lanes

theorem partialRound_eq_apart (c : Config) (r : Nat) (d : Datapath) :
    partialRound c r d = { partialRoundApart c r d with N := (partialRound c r d).N } :=
  sparse_eq_sparseApart c r (ark0 c (12 * (c.H + 1) + r) (sbox0 (enterRound .partialRounds r d)))

theorem closingConstants_setN (c : Config) (r : Nat) (n : Lanes) (d : Datapath) :
    closingConstants c r { d with N := n } = { closingConstants c r d with N := n } := by
  unfold closingConstants; split <;> rfl

/-- A round of the second half forgets what N held: its MIX writes all twelve. -/
theorem fullRound2_setN (c : Config) (r : Nat) (n : Lanes) (d : Datapath) :
    fullRound2 c r { d with N := n } = fullRound2 c r d :=
  (congrArg (mix c.MDS) (closingConstants_setN c r n (sbox (enterRound .full2 r d)))).trans rfl

/-- The partial rounds of the two readings, run from the same registers, end in registers that differ in N alone. -/
theorem partialRounds_eq_apart (c : Config) (n : Nat) (d : Datapath) :
    ∃ v : Lanes, loop n (partialRound c) d = { loop n (partialRoundApart c) d with N := v } := by
  let R : Datapath → Datapath → Prop := fun x y => ∃ v : Lanes, x = { y with N := v }
  have round : ∀ r < n, ∀ x y, R x y → R (partialRound c r x) (partialRoundApart c r y) := by
    rintro r - x y ⟨v, rfl⟩
    exact ⟨_, partialRound_eq_apart c r { y with N := v }⟩
  exact loop_related R ⟨d.N, rfl⟩ round

/-- The second half forgets what N held: it has a round, whose MIX writes all twelve. -/
theorem fullRounds2_setN (c : Config) (v : Lanes) (d : Datapath) :
    loop c.H (fullRound2 c) { d with N := v } = loop c.H (fullRound2 c) d := by
  have rounds (n : Nat) : loop (n + 1) (fullRound2 c) { d with N := v } = loop (n + 1) (fullRound2 c) d := by
    induction n with
    | zero => exact fullRound2_setN c 0 v d
    | succ n ih => exact congrArg (fullRound2 c (n + 1)) ih
  exact rounds c.Hm1

/-- R23 against R138: whichever SPARSE follows, every register, N too, holds the same after a permutation. -/
theorem runScheduleApart_eq (c : Config) (d : Datapath) : runScheduleApart c d = runSchedule c d := by
  obtain ⟨v, h⟩ := partialRounds_eq_apart c c.RP (loop c.H (fullRound1 c) (ark c 0 { d with PH := .arkInit }))
  exact ((congrArg (loop c.H (fullRound2 c)) h).trans (fullRounds2_setN c v _)).symm

end Sys2Proof.Machine
end

