-- ==== Sys2Proof/Laws/Sequencer.lean ====
section
/-! SUPPORT. Each field after a micro-operation of the sequencer and at its start, the runs of the sequencer composed, and its phases told apart. -/

namespace Sys2Proof.Machine

section micro
variable (q : Sequencer) (op : Datapath → Datapath) (next : Line)
@[simp] theorem micro_dp : (q.micro op next).dp = op q.dp := rfl
@[simp] theorem micro_line : (q.micro op next).line = next := rfl
@[simp] theorem micro_pay : (q.micro op next).pay = q.pay := rfl
@[simp] theorem micro_out : (q.micro op next).out = q.out := rfl
end micro

section start
variable (pay : List Word) (d : Datapath)
@[simp] theorem seqStart_PH : (seqStart pay d).dp.PH = .load := rfl
@[simp] theorem seqStart_IPOS : (seqStart pay d).dp.IPOS = 0 := rfl
@[simp] theorem seqStart_OCNT : (seqStart pay d).dp.OCNT = 0 := rfl
@[simp] theorem seqStart_S : (seqStart pay d).dp.S = d.S := rfl
@[simp] theorem seqStart_line : (seqStart pay d).line = .first := rfl
@[simp] theorem seqStart_pay : (seqStart pay d).pay = pay := rfl
@[simp] theorem seqStart_out : (seqStart pay d).out = [] := rfl
end start

/-- A run of `m + n` steps is a run of `m` and then one of `n`. -/
theorem seqRun_add (c : Config) (m n : Nat) (q : Sequencer) : seqRun c (m + n) q = seqRun c n (seqRun c m q) := by
  induction m generalizing q with
  | zero => rw [Nat.zero_add, seqRun]
  | succ m ih => rw [Nat.succ_add, seqRun, ih, seqRun]

theorem seqStep_full1 {c : Config} {q : Sequencer} (h : q.dp.PH = .full1) : seqStep c q = seqFull1 c q := by rw [seqStep, h]

theorem seqStep_partial {c : Config} {q : Sequencer} (h : q.dp.PH = .partialRounds) : seqStep c q = seqPartial c q := by
  rw [seqStep, h]

theorem seqStep_full2 {c : Config} {q : Sequencer} (h : q.dp.PH = .full2) : seqStep c q = seqFull2 c q := by rw [seqStep, h]

end Sys2Proof.Machine
end

