-- ==== Sys2Proof/Laws/Work.lean ====
section
/-! SUPPORT. Each field after each update of a counted run. -/

namespace Sys2Proof.Machine

variable (c : Config) (w : Counted) (f : Datapath → Datapath)
@[simp] theorem counted_run_dp : (w.run c).dp = runSchedule c w.dp := rfl
@[simp] theorem counted_run_calls : (w.run c).calls = w.calls + 1 := rfl
@[simp] theorem counted_work_dp : (w.work f).dp = f w.dp := rfl
@[simp] theorem counted_work_calls : (w.work f).calls = w.calls := rfl

end Sys2Proof.Machine
end

