-- ==== Sys2Proof/Tests/Slice0.lean ====
section
/-! SUPPORT. The model's own tests. The expected results are those of spec/95_test_vectors.md (V<n>, under its toy
configurations), spec/30_encoding.md R84 and the rules' own examples; then a witness for the hypotheses of each obligation. -/

namespace Sys2Proof.Machine.Tests

/-! ### The toy configurations (95_test_vectors.md section 2) -/

/-- A natural number as a table entry. -/
def felt (n : Nat) : Felt := ⟨n % modulus, Nat.mod_lt n (by decide)⟩

/-- The formulas of TOYB, at any round counts. -/
def dense (Hm1 RP : Nat) : Config where
  Hm1 := Hm1
  RP := RP
  RC k := felt (1 + k ^ 2)
  MDS j i := felt (1 + (31 * j.val + 17 * i.val + 7 * i.val * j.val + j.val ^ 2) % 101)
  PRE j i := felt (1 + (13 * j.val + 29 * i.val + 5 * i.val * j.val + i.val ^ 2) % 103)
  SPR k := felt (1 + (k ^ 2 + 3 * k) % 107)

/-- TOYB: RF = 8, RP = 22. -/
def toyB : Config := dense 3 22

/-- TINY: RF = 2, RP = 1. -/
def tiny : Config := dense 0 1

/-- TINY with another entry where RC of length 25 ends. -/
def tinyBeyond : Config := { tiny with RC := fun k => if k < 25 then tiny.RC k else 0 }

/-! ### Small states and readers of results -/

/-- After reset, with one request presented. -/
def presenting (r : Request) : State := { State.reset with inbox := [.request r] }

/-- A halted block: a fault with code 0x83 came before. -/
def haltedBlock : State := { State.reset with FLT := true, FCAUSE := 0x83 }

/-- Scratch registers full of the largest field element. -/
def fullScratch : Datapath :=
  { Datapath.reset with S := Vector.replicate 12 (BitVec.ofNat 64 (modulus - 1)), T0 := BitVec.ofNat 64 (modulus - 1) }

/-- The next state of a result. -/
def nextOf : Result → Option State
  | .next t => some t
  | .fault _ => none
  | .refused _ => none

/-- The response of a result. -/
def respOf (r : Result) : Option Response := (nextOf r).bind State.resp

/-- What a command answers right after reset under a configuration. -/
def answer (c : Config) (i : Instr) : Option Response := respOf (execUnder c i State.reset)

/-- An OK response of words. -/
def okWords (l : List Word) : Option Response := some ⟨0x00000000, .words l⟩

/-- An OK response of bytes. -/
def okBytes (l : List Byte) : Option Response := some ⟨0x00000000, .bytes l⟩

/-- A response with nothing but a status. -/
def failed (stat : BitVec 32) : Option Response := some ⟨stat, .words []⟩

/-- A text as the bytes of its characters. -/
def ascii (t : String) : List Byte := t.toList.map fun ch => BitVec.ofNat 8 ch.toNat

/-- The words 100, 101, … -/
def from100 (k : Nat) : List Word := (List.range k).map fun t => BitVec.ofNat 64 (100 + t)

/-- The modulus as a word. -/
def P : Word := 0xFFFFFFFF00000001

/-! ### Well-formedness -/

theorem test_wf_refuses_wide_count : (Instr.sponge 16777216 []).wf = false := by decide
theorem test_wf_refuses_wide_depth : (Instr.zeros 16777216 []).wf = false := by decide

/-! ### Decoding: words written out bit by bit (R84) -/

theorem test_decode_perm : decode ⟨0b00000000000000000000000000000001#32, [7#64]⟩ = .ok (.perm [7]) := by decide
theorem test_decode_sponge : decode ⟨0b00000000000000000000010000000010#32, [7#64]⟩ = .ok (.sponge 4 [7]) := by decide
theorem test_decode_hashn : decode ⟨0b00000000000000000000000000000011#32, [7#64]⟩ = .ok (.hashn [7]) := by decide
theorem test_decode_hashp : decode ⟨0b00000000000000000000000000000100#32, [7#64]⟩ = .ok (.hashp [7]) := by decide
theorem test_decode_comp : decode ⟨0b00000000000000000000000000000101#32, [7#64]⟩ = .ok (.comp [7]) := by decide
theorem test_decode_leaf : decode ⟨0b00000000000000000000000000000110#32, [7#64]⟩ = .ok (.leaf [7]) := by decide
theorem test_decode_zeros : decode ⟨0b00000000000000000000010000000111#32, []⟩ = .ok (.zeros 4 []) := by decide
theorem test_decode_encb : decode ⟨0b00000000000000000000000000001000#32, [7#64]⟩ = .ok (.encb [7]) := by decide
theorem test_decode_decb : decode ⟨0b00000000000000000000000000001001#32, [7#8]⟩ = .ok (.decb [7]) := by decide
theorem test_decode_ench : decode ⟨0b00000000000000000000000000001010#32, [7#64]⟩ = .ok (.ench [7]) := by decide
theorem test_decode_dech : decode ⟨0b00000000000000000000000000001011#32, [7#8]⟩ = .ok (.dech [7]) := by decide

/-- V100, V101, V102: words that are no commands. -/
theorem test_decode_illegal :
    decode ⟨0x00000000#32, []⟩ = .error .undefinedOpcode ∧ decode ⟨0x0000000C#32, []⟩ = .error .undefinedOpcode ∧
    decode ⟨0x000000FF#32, []⟩ = .error .undefinedOpcode ∧ decode ⟨0x00000101#32, []⟩ = .error .nonzeroArg := by decide

/-- The table words (R84) through the host's own entry. -/
theorem test_decode_table_words :
    decodeTableWord 32 0x00000402 = some (.sponge 4 []) ∧ decodeTableWord 32 0x00000107 = some (.zeros 1 []) ∧
    decodeTableWord 32 0x00000008 = some (.encb [0, 0, 0, 0]) := by decide

/-- The bits of ARG at both ends of its field (R81). -/
theorem test_decode_argument_ends :
    decode ⟨0xFFFFFF02#32, []⟩ = .ok (.sponge 16777215 []) ∧ decode ⟨0x80000007#32, []⟩ = .ok (.zeros 8388608 []) := by decide

/-! ### The field (V1 to V15) -/

theorem test_field_reduction : fred P = 0 ∧ fred 0xFFFFFFFFFFFFFFFF = 4294967294 := by decide
theorem test_field_addition : fadd (P - 1) 1 = 0 ∧ fadd (P - 1) (P - 1) = P - 2 := by decide
theorem test_field_product : fmul (P - 1) (P - 1) = 1 ∧ fmul 4294967296 4294967295 = P - 1 := by decide
theorem test_field_sbox : fpow7 (P - 2) = P - 128 ∧ fpow7 0x8000000000000000 = 144115188075855872 := by decide
theorem test_field_member : isMember (P - 1) = true ∧ isMember P = false := by decide

/-! ### Results of the commands -/

/-- V20. -/
theorem test_perm_tiny : answer tiny (.perm [0, 1, 2, 3, 4, 5, 6, 7, 8, 9, 10, 11]) =
    okWords [0xbb0635097ce4ba3c, 0x27a85579a2989c4d, 0xb466e101ade5d231, 0x21df356081e49ecf, 0xa071860f9e1cb7eb,
      0x36f24f024a7dadd4, 0xbd563739578f6c0b, 0xc7c1762692c3fa9e, 0x4facd8fe913136a7, 0xb26e1140fdc12af9,
      0x080fdff6afc945d5, 0x92136dd10aef371f] := by decide +kernel

/-- V25: words at and above p are reduced on load; RF = 8, RP = 22. -/
theorem test_perm_toyB : answer toyB (.perm [P, P + 1, 0xFFFFFFFFFFFFFFFF, 0, 0, 0, 0, 0, 0, 0, 0, 0]) =
    okWords [0xddc0357ee84fcdcd, 0xcd318fb38373344b, 0xe1c13171f69e6c1d, 0x2f764dc88ef0e84d, 0x2e9b57d9f4d2a27e,
      0x5efbc6af19e4ec9f, 0x29d62781fcf6d9b3, 0x0e5fb3c5fba35b3d, 0xd056f54f663a5196, 0xf73fca97fce5452e,
      0x32b9ba5fa5e32307, 0xbd5d423cc4fc8d48] := by decide +kernel

/-- V20: MIX(PRE) of the state that the trace gives. -/
theorem test_mix_orientation : (mix tiny.PRE { Datapath.reset with S :=
      #v[146, 2357, 823740, 62748743, 1801088798, 27512614401, 271818611432, 1954897493555, 11047398519498, 51676101936173,
        207616015290356, 736141813551807] }).S[0] = 36995537172026438 := by decide +kernel

/-- V20: the micro-operations one by one: after LOADW, ARK(0), SBOX and ARK(12), that is FULL1(0) line 2. -/
theorem test_sequencer_fourth_step : (seqRun tiny 4 (seqStart [0, 1, 2, 3, 4, 5, 6, 7, 8, 9, 10, 11] fullScratch)).dp.S.toList =
    [146, 2357, 823740, 62748743, 1801088798, 27512614401, 271818611432, 1954897493555, 11047398519498, 51676101936173,
      207616015290356, 736141813551807] := by decide +kernel

/-- R29: none of the payload consumed at the start; after the load all twelve words are, and no unit is produced yet. -/
theorem test_sequencer_counters : (seqStart [] fullScratch).dp.IPOS = 0 ∧ (seqRun tiny 4
    (seqStart [0, 1, 2, 3, 4, 5, 6, 7, 8, 9, 10, 11] fullScratch)).dp.IPOS = 12 ∧ (seqRun tiny 4
    (seqStart [0, 1, 2, 3, 4, 5, 6, 7, 8, 9, 10, 11] fullScratch)).dp.OCNT = 0 := by decide +kernel

/-- V20: line 2 of the one round of the second half is skipped, so the whole walk has eleven steps. -/
theorem test_sequencer_whole_walk : (seqRun tiny 11 (seqStart [0, 1, 2, 3, 4, 5, 6, 7, 8, 9, 10, 11] fullScratch)).dp.PH = .idle ∧
    (seqRun tiny 11 (seqStart [0, 1, 2, 3, 4, 5, 6, 7, 8, 9, 10, 11] fullScratch)).out.head? = some 0xbb0635097ce4ba3c := by
  decide +kernel

/-- V44, V57: three calls for k = 9, n = 10; four for a padded input of 25 elements; none for the empty input. -/
theorem test_work_counts : (countedSqueeze tiny 10 (countedAbsorb tiny (from100 9) ⟨fullScratch, 0⟩)).2.calls = 3 ∧
    (countedAbsorb tiny (pad (from100 12)) ⟨fullScratch, 0⟩).calls = 4 ∧ (countedAbsorb tiny [] ⟨fullScratch, 0⟩).calls = 0 := by
  decide +kernel

/-- V32: the ninth element of an empty input comes from the permutation of the zero state. -/
theorem test_sponge_empty_nine : answer toyB (.sponge 9 []) =
    okWords [0, 0, 0, 0, 0, 0, 0, 0, 0x6196837be1b0edce] := by decide +kernel

/-- V36: a remainder overwrites its lanes only. -/
theorem test_sponge_remainder : answer toyB (.sponge 4 (from100 9)) =
    okWords [0x09ba7113cfc97eb5, 0x0308c4d0a25c909e, 0x12f17e1fe348aeb7, 0x5be7df20431e35ae] := by decide +kernel

/-- V50. -/
theorem test_hashn_one_block : answer toyB (.hashn [0, 0, 0, 0, 0, 0, 0, 0]) =
    okWords [0x6196837be1b0edce, 0xba799dc8f41c08cd, 0xba6b8f38b7b783e9, 0x2e51e53e23610745] := by decide +kernel

/-- V59. -/
theorem test_hashp_short : answer toyB (.hashp [7, 8, 9]) =
    okWords [0x9834e400b4625d9e, 0xc19fa1e1191a6f53, 0x1260c5d3c59801c9, 0x1753933280146be8] := by decide +kernel

/-- V56: eleven elements are padded with no zeros. -/
theorem test_hashp_no_zeros : answer toyB (.hashp (from100 11)) =
    okWords [0x6032e0b9c9907fee, 0xdc0ca8ac3d7618b3, 0xd6e41b1bb3587eab, 0x062462932ad2c32e] := by decide +kernel

/-- V60. -/
theorem test_comp_result : answer toyB (.comp [1, 2, 3, 4, 5, 6, 7, 8]) =
    okWords [0xd3de8d0cdb253279, 0x07ea46ea17e5ce55, 0x72fc222ceccea3b0, 0xbd1b5731c66e915b] := by decide +kernel

/-- V68, V107: a limb equal to p; and the width comes first. -/
theorem test_comp_range : answer toyB (.comp [P, 0, 0, 0, 0, 0, 0, 0]) = failed 0x00000002 ∧
    answer toyB (.comp [P, 0, 0, 0, 0, 0, 0]) = failed 0x00000082 := by decide +kernel

/-- V62. -/
theorem test_leaf_result : answer toyB (.leaf [1, 2, 3, 4, 5, 6, 7, 8]) =
    okWords [0xada5922906a48cb2, 0x1c8e8a0e9006265e, 0x3b59e933156a6b23, 0x27236b4aee6218ab] := by decide +kernel

/-- V65, the second level from the root on: PRG2 says ZEROS 3 is the last three digests of ZEROS 4. -/
theorem test_zeros_three : answer toyB (.zeros 3 []) =
    okWords [0xecff4ab0ea241e11, 0xd64c6d486343425a, 0x8325990a9c858002, 0x58e4882cf6e1b02b,
      0x6196837be1b0edce, 0xba799dc8f41c08cd, 0xba6b8f38b7b783e9, 0x2e51e53e23610745, 0, 0, 0, 0] := by decide +kernel

/-- V106: the width comes before the depth. -/
theorem test_zeros_width_first : answer toyB (.zeros 0 [5]) = failed 0x00000082 ∧ answer toyB (.zeros 0 []) = failed 0x00000084 := by
  decide +kernel

/-- V70. -/
theorem test_encb_bytes :
    respOf (exec (.encb [0x0123456789abcdef, 0x1122334455667788, 0x99aabbccddeeff00, 0xfedcba9876543210]) State.reset) =
    okBytes [0xfe, 0xdc, 0xba, 0x98, 0x76, 0x54, 0x32, 0x10, 0x99, 0xaa, 0xbb, 0xcc, 0xdd, 0xee, 0xff, 0x00,
      0x11, 0x22, 0x33, 0x44, 0x55, 0x66, 0x77, 0x88, 0x01, 0x23, 0x45, 0x67, 0x89, 0xab, 0xcd, 0xef] := by decide +kernel

/-- V98. -/
theorem test_encb_range : respOf (exec (.encb [P, 0, 0, 0]) State.reset) = failed 0x00000002 := by decide +kernel

/-- V71. -/
theorem test_ench_text :
    respOf (exec (.ench [0x0123456789abcdef, 0x1122334455667788, 0x99aabbccddeeff00, 0xfedcba9876543210]) State.reset) =
    okBytes (ascii "fedcba987654321099aabbccddeeff0011223344556677880123456789abcdef") := by decide +kernel

/-- V73. -/
theorem test_decb_limbs :
    respOf (exec (.decb [0, 0, 0, 0, 0, 0, 0, 2, 0, 0, 0, 0, 0, 0, 0, 1, 0, 0, 0, 0, 0, 0, 0, 0,
      0xff, 0xff, 0xff, 0xff, 0, 0, 0, 0]) State.reset) = okWords [P - 1, 0, 1, 2] := by decide +kernel

/-- V81, V75. -/
theorem test_decb_failures :
    respOf (exec (.decb (List.replicate 33 0)) State.reset) = failed 0x00000001 ∧
    respOf (exec (.decb ([0xff, 0xff, 0xff, 0xff, 0, 0, 0, 1] ++ List.replicate 24 0)) State.reset) = failed 0x00000002 := by
  decide +kernel

/-- V84: a prefix, and upper case. -/
theorem test_dech_prefix :
    respOf (exec (.dech (ascii "0xFFFFFFFF00000000000000000000000000000000000000000000000000000000")) State.reset) =
    okWords [0, 0, 0, P - 1] := by decide +kernel

/-- V86, V87, V92. -/
theorem test_dech_failures :
    respOf (exec (.dech (ascii "0x")) State.reset) = failed 0x00000001 ∧
    respOf (exec (.dech (ascii "0")) State.reset) = failed 0x00000003 ∧
    respOf (exec (.dech (ascii "0X" ++ List.replicate 64 0x30)) State.reset) = failed 0x00000003 := by decide +kernel

/-- V109. -/
theorem test_halted_refusal :
    nextOf (exec (.perm (List.replicate 12 0)) haltedBlock) = some { haltedBlock with resp := failed 0x0000838F } := by
  decide +kernel

/-- PRG4: an illegal word on a halted block is refused, not decoded; then reset. -/
theorem test_halted_before_opcode :
    nextOf (step { haltedBlock with inbox := [.request ⟨0x00000000#32, []⟩] }) = some { haltedBlock with resp := failed 0x0000838F } ∧
    nextOf (step { haltedBlock with inbox := [.reset] }) = some State.reset := by decide +kernel

/-! ### Witnesses: the hypotheses of each obligation that has any are met together, by a concrete state and operands -/

/-- A digest of four limbs p - 1, the largest valid one. -/
def largest : Digest := Vector.replicate 4 (BitVec.ofNat 64 (modulus - 1))

/-- A request of 31 zero bytes to DECB. -/
def shortDecb : Request := ⟨0x00000009#32, List.replicate 31 0⟩

/-- The request of ENCB on four zeros. -/
def zeroEncb : Request := ⟨0x00000008#32, [0, 0, 0, 0]⟩

theorem test_witness_DecodeEncodeRoundTrip : (Instr.sponge 16777215 [P]).wf = true ∧ (Instr.zeros 16777215 []).wf = true ∧
    (Instr.dech [0x30]).wf = true := by decide

theorem test_witness_EncodeDecodeRoundTrip : decode shortDecb = .ok (.decb (List.replicate 31 0)) := by decide

theorem test_witness_LegalCommandWords : decode ⟨0x0000000B#32, []⟩ = .ok (.dech []) ∧ decode ⟨0x00000001#32, []⟩ = .ok (.perm []) := by
  decide

theorem test_witness_StepRunsDecodedCommand :
    (presenting zeroEncb).inbox = .request zeroEncb :: [] ∧ decode zeroEncb = .ok (.encb [0, 0, 0, 0]) := by decide

theorem test_witness_IdleBlockWaits : State.reset.inbox = [] := rfl

theorem test_witness_ResetClearsTheLatch : ({ haltedBlock with inbox := [.reset, .reset] } : State).inbox = .reset :: [.reset] := rfl

theorem test_witness_OneResponsePerRequest : ∃ t, step (presenting zeroEncb) = .next t ∧ t.resp.isSome = true := ⟨_, rfl, rfl⟩

theorem test_witness_InstancesAreIndependent :
    ∃ m', stepInstance 0 [State.reset, haltedBlock] = .next m' ∧ (1 : Nat) ≠ 0 ∧ [State.reset, haltedBlock][0]? = some State.reset :=
  ⟨_, rfl, by decide, rfl⟩

theorem test_witness_IllegalRequestFaults :
    (presenting ⟨0x00000000#32, []⟩).FLT = false ∧ (0x00000000#32).toNat % 256 = 0 ∧
    12 ≤ (0x0000000C#32).toNat % 256 ∧ 12 ≤ (0x000000FF#32).toNat % 256 ∧
    ((0x00000101#32).toNat / 256 ≠ 0 ∧ (0x00000101#32).toNat % 256 ≠ 2 ∧ (0x00000101#32).toNat % 256 ≠ 7) := by decide

theorem test_witness_HaltedBlockRefusesEveryRequest :
    ({ haltedBlock with inbox := [.request zeroEncb] } : State).inbox = .request zeroEncb :: [] ∧
    ({ haltedBlock with inbox := [.request zeroEncb] } : State).FLT = true := ⟨rfl, rfl⟩

theorem test_witness_HaltedBlockExecutesNothing : haltedBlock.FLT = true := rfl

theorem test_witness_WrongWidthFaults : State.reset.FLT = false ∧ (List.replicate 11 P).length ≠ 12 ∧ (List.replicate 13 P).length ≠ 12 ∧
    (List.replicate 7 P).length ≠ 8 ∧ (List.replicate 9 P).length ≠ 8 ∧ (List.replicate 3 P).length ≠ 4 ∧
    (List.replicate 5 P).length ≠ 4 ∧ [P].length ≠ 0 := by decide

theorem test_witness_ZeroCountsFault : State.reset.FLT = false := rfl

theorem test_witness_DigestOperandRangeChecked : State.reset.FLT = false ∧
    (∃ w ∈ [P, 0, 0, 0, 0, 0, 0, 0], 18446744069414584321 ≤ w.toNat) ∧ [P, 0, 0, 0, 0, 0, 0, 0].length = 8 ∧
    (∃ w ∈ [0, 0, 0, P], 18446744069414584321 ≤ w.toNat) ∧ [0, 0, 0, P].length = 4 :=
  ⟨rfl, ⟨P, by simp, by decide +kernel⟩, rfl, ⟨P, by simp, by decide +kernel⟩, rfl⟩

theorem test_witness_LatchClearedOnlyByReset :
    ∃ t, step { haltedBlock with inbox := [.request zeroEncb, .reset] } = .next t ∧ haltedBlock.FLT = true ∧
      ∀ rest, [HostEvent.request zeroEncb, HostEvent.reset] ≠ .reset :: rest :=
  ⟨_, rfl, rfl, fun _ h => by cases h⟩

theorem test_witness_FaultEntryLatchesItsCode :
    ∃ t, step (presenting ⟨0x000000FF#32, []⟩) = .next t ∧ (presenting ⟨0x000000FF#32, []⟩).FLT = false ∧ t.FLT = true :=
  ⟨_, rfl, rfl, rfl⟩

theorem test_witness_TypedErrorLeavesNoTrace :
    (∃ t q, step (presenting shortDecb) = .next t ∧ t.resp = some q ∧ 1 ≤ q.stat.toNat ∧ q.stat.toNat ≤ 3) ∧
    (∃ t q, step (presenting ⟨0x0000000B#32, [0x7A, 0x7A]⟩) = .next t ∧ t.resp = some q ∧ q.stat.toNat = 3) :=
  ⟨⟨_, _, rfl, rfl, by decide +kernel, by decide +kernel⟩, ⟨_, _, rfl, rfl, by decide +kernel⟩⟩

/-- A halted block with full scratch registers meets the invariant, and steps. -/
theorem test_witness_StepKeepsInvariant :
    Invariant { haltedBlock with dp := fullScratch, inbox := [.request zeroEncb] } ∧
    ∃ t, step { haltedBlock with dp := fullScratch, inbox := [.request zeroEncb] } = .next t := by
  refine ⟨⟨⟨?_, by decide, ?_⟩, ⟨fun h => (by cases h), fun _ => ⟨.count, rfl⟩⟩, rfl, ?_, fun r h => (by cases h)⟩, _, rfl⟩
  · intro i; revert i; decide
  · intro i; revert i; decide
  · exact lt_of_lt_of_le (Nat.succ_pos _) (le_max_left _ _)

theorem test_witness_ResponseIndependentOfScratch :
    ∃ u v, step (presenting zeroEncb) = .next u ∧ step { presenting zeroEncb with dp := fullScratch } = .next v ∧
      (presenting zeroEncb).dp ≠ fullScratch := ⟨_, _, rfl, rfl, by decide⟩

/-- V79: four words p - 1 are exported. -/
theorem test_witness_ExportedWordsBelowModulus :
    respOf (exec (.decb (encodeBytes largest)) State.reset) = okWords largest.toList ∧ P - 1 ∈ largest.toList := by decide +kernel

theorem test_witness_field_members : isMember (P - 1) = true ∧ isMember 0 = true := by decide

theorem test_witness_LaneMicroOperations : (11 : Fin 12) ≠ 0 := by decide

theorem test_witness_RoundsFollowTheirRules : 2 < toyB.Hm1 ∧ 3 = toyB.Hm1 ∧ 21 < toyB.RP := by decide

/-- Two configurations that agree within the lengths of the tables, and nowhere else that matters. -/
theorem test_witness_PermuteReadsTablesWithinLength :
    tiny.Hm1 = tinyBeyond.Hm1 ∧ tiny.RP = tinyBeyond.RP ∧ tiny.MDS = tinyBeyond.MDS ∧ tiny.PRE = tinyBeyond.PRE ∧
    (∀ k < 12 * (2 * (tiny.Hm1 + 1)) + tiny.RP, tiny.RC k = tinyBeyond.RC k) ∧
    (∀ k < 23 * tiny.RP, tiny.SPR k = tinyBeyond.SPR k) ∧ tiny.RC 25 ≠ tinyBeyond.RC 25 :=
  ⟨rfl, rfl, rfl, rfl, by decide +kernel, fun _ _ => rfl, by decide +kernel⟩

/-- A block that is not halted: the one hypothesis of PermRuns, SpongeRuns, HashnRuns, HashpRuns and ZerosRuns. -/
theorem test_witness_running_block : ({ State.reset with dp := fullScratch } : State).FLT = false := rfl

theorem test_witness_SequencerRunsTheSchedule : ({ State.reset with dp := fullScratch } : State).dp = fullScratch ∧
    ({ State.reset with dp := fullScratch } : State).FLT = false ∧ (from100 12).length = 12 := ⟨rfl, rfl, by decide⟩

theorem test_witness_PermutationCallCounts : State.reset.FLT = false ∧ (from100 12).length = 12 ∧
    validDigest largest = true ∧ validDigest zeroDigest = true := by decide

theorem test_witness_AbsorbOneBlock : (from100 16).length % 8 = 0 ∧ 1 ≤ [P].length ∧ (from100 8).length ≤ 8 := by decide

theorem test_witness_SqueezeElements : (16 : Nat) < (17 : ℕ+) := by decide

theorem test_witness_EmptySpongeIsZeros : (8 : ℕ+) ≤ 8 ∧ (8 : ℕ+) < 9 ∧ (8 : Nat) < (9 : ℕ+) ∧ (15 : Nat) < (16 : ℕ+) ∧ 15 < 16 := by decide

theorem test_witness_valid_digests : validDigest largest = true ∧ validDigest zeroDigest = true ∧ State.reset.FLT = false := by decide

theorem test_witness_EmptyChainRecurrence : 0 + 1 < ((2 : ℕ+) : Nat) ∧ (1 : ℕ+) ≤ 16777215 := by decide

theorem test_witness_EncodeBytesPositions : 3 < 4 ∧ 7 < 8 ∧ 31 < 32 := by decide

/-- Lengths 31 and 33; a group equal to p; every group equal to p - 1. -/
theorem test_witness_DecodeBytesByGroups :
    (List.replicate 31 (0 : Byte)).length ≠ 32 ∧ (List.replicate 33 (0 : Byte)).length ≠ 32 ∧
    bigEndian [0xff, 0xff, 0xff, 0xff, 0, 0, 0, 1] = modulus ∧
    bigEndian [0xff, 0xff, 0xff, 0xff, 0, 0, 0, 0] < modulus ∧ (encodeBytes largest).length = 32 := by decide +kernel

theorem test_witness_BinaryRoundTrip : ∃ D, decodeBytes (encodeBytes largest) = .ok D := ⟨largest, by decide +kernel⟩

/-- Texts with and without the prefix, of odd and even length, with and without a character that is no digit. -/
theorem test_witness_DecodeHexByDigits :
    ascii "0x0" = 0x30#8 :: 0x78#8 :: [0x30#8] ∧ [0x30#8].length % 2 = 1 ∧
    (¬ ∃ rest, ascii "4g" = 0x30#8 :: 0x78#8 :: rest) ∧ (ascii "4g").length % 2 = 0 ∧
    (¬ ∃ rest, ascii "9F" = 0x30#8 :: 0x78#8 :: rest) ∧ (ascii "9F").length % 2 = 0 ∧ [0x9F#8].length = (ascii "9F").length / 2 ∧
    (∀ ch ∈ ascii "9F", (0x30 ≤ ch.toNat ∧ ch.toNat ≤ 0x39) ∨ (0x61 ≤ ch.toNat ∧ ch.toNat ≤ 0x66) ∨ (0x41 ≤ ch.toNat ∧ ch.toNat ≤ 0x46)) ∧
    ([0x9F#8].getD 0 0).toNat = 16 * (((ascii "9F").getD 0 0).toNat - 0x30) + (((ascii "9F").getD 1 0).toNat - 0x41 + 10) := by
  refine ⟨by decide, by decide, ?_, by decide, ?_, by decide, by decide, by decide, by decide⟩ <;>
    · rintro ⟨rest, h⟩; exact absurd (List.cons.inj h).1 (by decide)

theorem test_witness_TextRoundTrip : ∃ D, decodeHex (ascii "0x" ++ List.replicate 64 0x46 ) = .error D ∧
    decodeHex (ascii "0x" ++ List.replicate 64 0x30) = .ok zeroDigest := ⟨.range, by decide +kernel, by decide +kernel⟩

theorem test_witness_DecodersRun : State.reset.FLT = false ∧ decodeBytes (List.replicate 32 0) = .ok zeroDigest ∧
    decodeHex (List.replicate 64 0x30) = .ok zeroDigest := by decide +kernel

theorem test_witness_DecodersReportFailures : State.reset.FLT = false ∧ decodeBytes [] = .error .length ∧
    decodeBytes (List.replicate 32 0xff) = .error .range ∧ decodeHex [] = .error .length ∧
    decodeHex (List.replicate 64 0x66) = .error .range ∧ decodeHex [0x67] = .error .text := by decide +kernel

end Sys2Proof.Machine.Tests
end

namespace Sys2Proof.Machine

/-! ### What one step can do for each event, and the status words (30_encoding.md R83, R91) -/

/-- What a step that ended in `t` did: wait, reset, or end one command. -/
theorem step_next_cases {s t : State} (h : step s = .next t) :
    (s.inbox = [] ∧ t = s.deliver []) ∨
    (∃ rest, s.inbox = .reset :: rest ∧ t = (s.deliver rest).takeReset) ∨
    (∃ r rest, s.inbox = .request r :: rest ∧ Ended (s.deliver rest) t) := by
  obtain ⟨hs, e⟩ | ⟨rest, hs, e⟩ | ⟨r, rest, hs, u, e, hu⟩ := step_cases s <;>
    obtain rfl := Host.Outcome.next.inj (h.symm.trans e)
  · exact .inl ⟨hs, rfl⟩
  · exact .inr (.inl ⟨rest, hs, rfl⟩)
  · exact .inr (.inr ⟨r, rest, hs, hu⟩)

theorem step_command {s : State} {r : Request} {rest : List HostEvent} {i : Instr}
    (hs : s.inbox = .request r :: rest) (hd : decode r = .ok i) : step s = exec i (s.deliver rest) := by
  simp only [step, fetch_request hs, hd]

theorem step_rejected {s : State} {r : Request} {rest : List HostEvent} {e : Illegal}
    (hs : s.inbox = .request r :: rest) (hd : decode r = .error e) : step s = rejectRequest (s.deliver rest) := by
  simp only [step, fetch_request hs, hd]

theorem step_nothing {s : State} (hs : s.inbox = []) : step s = .next (s.deliver []) := by
  simp only [step, fetch_nothing hs]

theorem step_reset {s : State} {rest : List HostEvent} (hs : s.inbox = .reset :: rest) :
    step s = .next (s.deliver rest).takeReset := by
  simp only [step, fetch_reset hs]

/-- R83: `PREV` stands above `CODE`. -/
theorem statusWord_toNat (prev code : BitVec 8) : (statusWord prev code).toNat = code.toNat + 256 * prev.toNat := by
  have high : (0#16 ++ prev : BitVec (16 + 8)).toNat = prev.toNat := by
    rw [BitVec.toNat_append, BitVec.toNat_zero, Nat.zero_shiftLeft, Nat.zero_or]
  rw [statusWord, BitVec.toNat_append, high, ← Nat.shiftLeft_add_eq_or_of_lt code.isLt, Nat.shiftLeft_eq]
  omega

theorem statusWord_zero_prev (code : BitVec 8) : statusWord 0 code = code.setWidth 32 := by
  apply BitVec.eq_of_toNat_eq
  rw [statusWord_toNat, BitVec.toNat_setWidth_of_le (by decide)]
  rfl

theorem statusWord_okCode : statusWord 0 okCode = 0#32 := statusWord_zero_prev okCode

theorem statusWord_haltedCode (prev : BitVec 8) : (statusWord prev haltedCode).toNat = 0x8F + 256 * prev.toNat :=
  statusWord_toNat prev haltedCode

theorem FaultCause.code_bounds (cause : FaultCause) : 0x81 ≤ cause.code.toNat ∧ cause.code.toNat ≤ 0x84 := by
  cases cause <;> decide

/-! ### The latch (10_state.md R26, R27, R30) -/

/-- Settles O18: of the endings of a step, a halted block has only the idle wait and the refusal. (That the scratch registers
stay is the model's: log 2 for the wait, log 13 for the refusal.) -/
theorem latchClearedOnlyByReset : Obligations.LatchClearedOnlyByReset := by
  intro s t hst hlatched hnoReset
  obtain ⟨-, rfl⟩ | ⟨rest, hs, -⟩ | ⟨r, rest, -, hend⟩ := step_next_cases hst
  · exact ⟨hlatched, rfl, rfl⟩
  · exact absurd hs (hnoReset rest)
  · cases hend with
    | halted _ => exact ⟨hlatched, rfl, rfl⟩
    | fault hrun _ | error hrun _ | ok hrun _ _ _ => exact absurd (hlatched.symm.trans hrun) (by decide)

/-- Settles O19: of the endings of a step, only the fault leaves a running block halted. -/
theorem faultEntryLatchesItsCode : Obligations.FaultEntryLatchesItsCode := by
  intro s t hst hrun hrose
  have unchanged {u : State} (hu : u.FLT = true) (hus : u.FLT = s.FLT) : False :=
    absurd (hu.symm.trans (hus.trans hrun)) (by decide)
  obtain ⟨-, rfl⟩ | ⟨rest, -, rfl⟩ | ⟨r, rest, hs, hend⟩ := step_next_cases hst
  · exact (unchanged hrose rfl).elim
  · cases hrose
  · cases hend with
    | halted _ | error _ _ | ok _ _ _ _ => exact (unchanged hrose rfl).elim
    | fault _ cause =>
      obtain ⟨hlow, hhigh⟩ := cause.code_bounds
      exact ⟨r, rest, cause.code, hs, hlow, hhigh, by rw [statusWord_zero_prev]; rfl⟩

/-- Settles O20: statuses 1 to 3 are those of the typed errors alone, and that ending writes the response only. -/
theorem typedErrorLeavesNoTrace : Obligations.TypedErrorLeavesNoTrace := by
  intro s t q hst hq hlow hhigh
  obtain ⟨-, rfl⟩ | ⟨rest, -, rfl⟩ | ⟨r, rest, hs, hend⟩ := step_next_cases hst
  · cases hq
  · cases hq
  · cases hend with
    | halted _ =>
      obtain rfl := Option.some.inj hq
      rw [statusWord_haltedCode] at hhigh
      omega
    | fault _ cause =>
      obtain rfl := Option.some.inj hq
      rw [statusWord_toNat] at hhigh
      have := cause.code_bounds
      omega
    | error _ e =>
      obtain rfl := Option.some.inj hq
      exact ⟨rfl, r, rest, hs, rfl⟩
    | ok _ _ _ _ =>
      obtain rfl := Option.some.inj hq
      rw [statusWord_okCode] at hlow
      exact (Nat.not_succ_le_zero 0 hlow).elim

/-! ### The lanes that the datapath leaves are a function of the lanes it starts from (10_state.md R25) -/

/-- The lanes that `f` leaves depend on the lanes it starts from and on no other scratch register. -/
def LaneLocal (f : Datapath → Datapath) : Prop := ∀ d e, d.S = e.S → (f d).S = (f e).S

theorem LaneLocal.comp {f g : Datapath → Datapath} (hf : LaneLocal f) (hg : LaneLocal g) : LaneLocal fun d => f (g d) :=
  fun d e h => hf _ _ (hg d e h)

theorem loop_laneLocal {body : Nat → Datapath → Datapath} (h : ∀ r, LaneLocal (body r)) (n : Nat) :
    LaneLocal (loop n body) :=
  fun _ _ start => loop_related (fun x y => x.S = y.S) start fun r _ x y => h r x y

theorem ark_laneLocal (c : Config) (base : Nat) : LaneLocal (ark c base) := fun _ _ h => by simp [ark, h]

theorem sbox_laneLocal : LaneLocal sbox := fun _ _ h => by simp [sbox, h]

theorem mix_laneLocal (T : Fin 12 → Fin 12 → Felt) : LaneLocal (mix T) := fun _ _ h => by simp [mix, mixSums, h]

theorem sbox0_laneLocal : LaneLocal sbox0 := fun _ _ h => by simp [sbox0, h]

theorem ark0_laneLocal (c : Config) (k : Nat) : LaneLocal (ark0 c k) := fun _ _ h => by simp [ark0, h]

/-- SPARSE writes T0 and N[0] before it reads them. -/
theorem sparse_laneLocal (c : Config) (r : Nat) : LaneLocal (sparse c r) := fun _ _ h => by simp [sparse, h]

theorem enterRound_laneLocal (ph : Phase) (r : Nat) : LaneLocal (enterRound ph r) := fun _ _ h => h

theorem closingConstants_laneLocal (c : Config) (r : Nat) : LaneLocal (closingConstants c r) := by
  intro d e h
  unfold closingConstants
  split
  · exact ark_laneLocal c _ d e h
  · exact h

theorem fullRound1_laneLocal (c : Config) (r : Nat) : LaneLocal (fullRound1 c r) :=
  (mix_laneLocal _).comp ((ark_laneLocal c _).comp (sbox_laneLocal.comp (enterRound_laneLocal _ r)))

theorem partialRound_laneLocal (c : Config) (r : Nat) : LaneLocal (partialRound c r) :=
  (sparse_laneLocal c r).comp ((ark0_laneLocal c _).comp (sbox0_laneLocal.comp (enterRound_laneLocal _ r)))

theorem fullRound2_laneLocal (c : Config) (r : Nat) : LaneLocal (fullRound2 c r) :=
  (mix_laneLocal _).comp ((closingConstants_laneLocal c r).comp (sbox_laneLocal.comp (enterRound_laneLocal _ r)))

theorem runSchedule_laneLocal (c : Config) : LaneLocal (runSchedule c) :=
  (loop_laneLocal (fullRound2_laneLocal c) c.H).comp
    ((loop_laneLocal (partialRound_laneLocal c) c.RP).comp
      ((loop_laneLocal (fullRound1_laneLocal c) c.H).comp fun _ _ h => ark_laneLocal c 0 _ _ h))

/-- The lanes after a schedule, whatever the other scratch registers hold. -/
@[simp] theorem runSchedule_S (c : Config) (d : Datapath) : (runSchedule c d).S = permute c d.S :=
  runSchedule_laneLocal c d { Datapath.reset with S := d.S } rfl

/-- Settles O33: every micro-operation of the schedule writes its lanes from lanes, so the whole schedule does. -/
theorem scheduleIgnoresScratch : Obligations.ScheduleIgnoresScratch := runSchedule_S

/-! ### The results of the sponge and of the tree, whatever the scratch registers held -/

theorem loadw_laneLocal (x : List Word) (off cnt : Nat) : LaneLocal (loadw x off cnt) := fun _ _ h => by
  simp [loadw_S, h]

/-- A load of all twelve lanes forgets the lanes before it. -/
theorem loadw_twelve_S (x : List Word) (off : Nat) (d : Datapath) :
    (loadw x off 12 d).S = lanesOf fun i => fred (x.getD (off + i.val) 0) := by
  simp [loadw_S]

theorem absorbBlock_laneLocal (c : Config) (x : List Word) (off cnt : Nat) : LaneLocal (absorbBlock c x off cnt) :=
  (runSchedule_laneLocal c).comp fun _ _ h => loadw_laneLocal x off cnt _ _ h

theorem absorbFull_laneLocal (c : Config) (x : List Word) : LaneLocal (absorbFull c x) :=
  loop_laneLocal (fun b => absorbBlock_laneLocal c x (8 * b) 8) _

theorem absorbRemainder_laneLocal (c : Config) (x : List Word) : LaneLocal (absorbRemainder c x) := by
  intro d e h
  unfold absorbRemainder
  split
  · exact h
  · exact absorbBlock_laneLocal c x _ _ d e h

/-- Absorption starts from zero lanes, so it forgets the lanes before it. -/
@[simp] theorem absorb_S (c : Config) (x : List Word) (d : Datapath) : (absorb c x d).S = absorbLanes c x :=
  (absorbRemainder_laneLocal c x).comp (absorbFull_laneLocal c x) (absorbInit d) (absorbInit .reset) rfl

theorem squeezeGroups_fst_congr (c : Config) (g : Nat) {n : Nat} {d e : Datapath} (h : d.S = e.S) :
    (squeezeGroups c g n d).1 = (squeezeGroups c g n e).1 := by
  induction g generalizing n d e with
  | zero => rfl
  | succ g ih =>
    unfold squeezeGroups
    split
    · simp [h]
    · simp only [h, List.append_cancel_left_eq]
      exact ih (runSchedule_laneLocal c _ _ rfl)

theorem squeeze_fst_congr (c : Config) (n : Nat) {d e : Datapath} (h : d.S = e.S) :
    (squeeze c n d).1 = (squeeze c n e).1 := squeezeGroups_fst_congr c _ h

@[simp] theorem compressRun_S (c : Config) (A B : Digest) (d : Datapath) :
    (compressRun c A B d).S = permute c (digestLanes A B) := runSchedule_S c _

theorem tagLeaf_laneLocal : LaneLocal tagLeaf := fun _ _ h => by simp [tagLeaf, h]

theorem leafRun_S_congr (c : Config) (A B : Digest) (d e : Datapath) : (leafRun c A B d).S = (leafRun c A B e).S :=
  (runSchedule_laneLocal c).comp tagLeaf_laneLocal _ _ ((compressRun_S c A B d).trans (compressRun_S c A B e).symm)

/-- The next digest of the chain: the compression of the last one with itself. -/
theorem chainStep_fst (c : Config) (levels k : Nat) (acc : List Digest × Datapath) :
    (chainStep c levels k acc).1 =
      laneDigest (permute c (digestLanes (acc.1.headD zeroDigest) (acc.1.headD zeroDigest))) :: acc.1 := by
  rw [← compressRun_S]; rfl

theorem chainRun_fst_congr (c : Config) (levels : Nat) (d e : Datapath) :
    (chainRun c levels d).1 = (chainRun c levels e).1 :=
  loop_related (fun x y : List Digest × Datapath => x.1 = y.1) rfl fun _ _ _ _ h => by simp only [chainStep_fst, h]


/-! ### Two states that the host cannot tell apart (10_state.md R25, 20_memory.md R63) -/

/-- Two states with the same answer: the response, the latch and its cause agree; the scratch registers need not. -/
structure SameAnswer (s t : State) : Prop where
  resp : s.resp = t.resp
  latch : s.FLT = t.FLT
  cause : s.FCAUSE = t.FCAUSE

/-- From states with the same answer `run` leads to states with the same answer. -/
def ScratchBlind (run : State → Result) : Prop :=
  ∀ s t, SameAnswer s t → ∃ u v, run s = .next u ∧ run t = .next v ∧ SameAnswer u v

theorem SameAnswer.respond {s t : State} (h : SameAnswer s t) (stat : BitVec 32) (out : Payload) :
    SameAnswer (s.respond stat out) (t.respond stat out) := ⟨rfl, h.latch, h.cause⟩

theorem SameAnswer.refuseHalted {s t : State} (h : SameAnswer s t) : SameAnswer s.refuseHalted t.refuseHalted :=
  ⟨by simp only [refuseHalted_resp, h.cause], h.latch, h.cause⟩

theorem raiseError_blind (e : TypedError) : ScratchBlind (raiseError e) :=
  fun _ _ h => ⟨_, _, rfl, rfl, h.respond _ _⟩

theorem raiseFault_blind (cause : FaultCause) : ScratchBlind (raiseFault cause) :=
  fun _ _ _ => ⟨_, _, rfl, rfl, rfl, rfl, rfl⟩

theorem returnOkUntouched_blind (out : Payload) : ScratchBlind (returnOkUntouched out) :=
  fun _ _ h => ⟨_, _, rfl, rfl, h.respond _ _⟩

/-- A command that returns the same payload from every state; what it leaves in the scratch registers does not matter. -/
theorem returnOk_blind {out : State → Payload} (dp : State → Datapath) (hout : ∀ s t, out s = out t) :
    ScratchBlind fun s => returnOk (out s) (dp s) s :=
  fun s t h => ⟨_, _, rfl, rfl, by simp only [respond_resp, hout s t], h.latch, h.cause⟩

theorem unload_blind (g : Nat) {dp : State → Datapath} (hdp : ∀ s t, (dp s).S = (dp t).S) :
    ScratchBlind fun s => unload g (dp s) s :=
  returnOk_blind _ fun s t => by simp only [hdp s t]

theorem returnDecoded_blind (r : Except TypedError Digest) : ScratchBlind (returnDecoded r) := by
  cases r with
  | error e => exact raiseError_blind e
  | ok D => exact returnOkUntouched_blind _

theorem accept_blind {run : State → Result} (h : ScratchBlind run) : ScratchBlind fun s => accept s run := by
  intro s t hst
  cases hs : s.FLT with
  | true => exact ⟨_, _, accept_halted hs run, accept_halted (hst.latch ▸ hs) run, hst.refuseHalted⟩
  | false =>
    simp only [accept_running hs, accept_running (hst.latch ▸ hs : t.FLT = false)]
    exact h s t hst

theorem requireWidth_blind (k : Nat) (pay : List Word) {run : State → Result} (h : ScratchBlind run) :
    ScratchBlind (requireWidth k pay run) := by
  unfold requireWidth
  split
  · exact h
  · exact raiseFault_blind _

theorem requireLimbs_blind (pay : List Word) {run : State → Result} (h : ScratchBlind run) :
    ScratchBlind (requireLimbs pay run) := by
  unfold requireLimbs
  split
  · exact h
  · exact raiseError_blind _

/-- Every command first writes each lane it reads. -/
theorem exec_blind (i : Instr) : ScratchBlind (exec i) := by
  cases i with
  | perm pay =>
    exact accept_blind (requireWidth_blind _ _ (unload_blind _ fun s t => by simp only [runSchedule_S, loadw_twelve_S]))
  | sponge n pay =>
    refine accept_blind ?_
    split
    · exact raiseFault_blind _
    · exact returnOk_blind _ fun s t => by
        rw [squeeze_fst_congr _ _ ((absorb_S _ pay s.dp).trans (absorb_S _ pay t.dp).symm)]
  | hashn pay => exact accept_blind (unload_blind _ fun s t => by simp only [absorb_S])
  | hashp pay => exact accept_blind (unload_blind _ fun s t => by simp only [absorb_S])
  | comp pay =>
    exact accept_blind (requireWidth_blind _ _ (requireLimbs_blind _ (unload_blind _ fun s t => by simp only [compressRun_S])))
  | leaf pay =>
    exact accept_blind (requireWidth_blind _ _ (requireLimbs_blind _ (unload_blind _ fun s t => leafRun_S_congr _ _ _ _ _)))
  | zeros levels pay =>
    refine accept_blind (requireWidth_blind _ _ ?_)
    split
    · exact raiseFault_blind _
    · exact returnOk_blind _ fun s t => by rw [chainRun_fst_congr]
  | encb pay => exact accept_blind (requireWidth_blind _ _ (requireLimbs_blind _ (returnOkUntouched_blind _)))
  | decb pay => exact accept_blind (returnDecoded_blind _)
  | ench pay => exact accept_blind (requireWidth_blind _ _ (requireLimbs_blind _ (returnOkUntouched_blind _)))
  | dech pay => exact accept_blind (returnDecoded_blind _)

theorem rejectRequest_blind : ScratchBlind rejectRequest := accept_blind (raiseFault_blind .illegal)

/-- Settles O23: a step is a reset, which forgets everything, or one request run on states with the same answer. -/
theorem responseIndependentOfScratch : Obligations.ResponseIndependentOfScratch := by
  intro s t u v e a b hs ht hlatch hcause hu hv
  have hst : SameAnswer (s.deliver a) (t.deliver b) := ⟨rfl, hlatch, hcause⟩
  have same : ∃ u' v', step s = .next u' ∧ step t = .next v' ∧ SameAnswer u' v' := by
    cases e with
    | reset => exact ⟨_, _, step_reset hs, step_reset ht, rfl, rfl, rfl⟩
    | request r =>
      cases hd : decode r with
      | error _ => rw [step_rejected hs hd, step_rejected ht hd]; exact rejectRequest_blind _ _ hst
      | ok i => rw [step_command hs hd, step_command ht hd]; exact exec_blind i _ _ hst
  obtain ⟨u', v', hu', hv', h⟩ := same
  obtain rfl := Host.Outcome.next.inj (hu.symm.trans hu')
  obtain rfl := Host.Outcome.next.inj (hv.symm.trans hv')
  exact ⟨h.resp, h.latch, h.cause⟩

/-! ### Canonical words (10_state.md R24, 40_field.md R117) -/

theorem canonical_lanesOf {f : Fin 12 → Word} (h : ∀ i, (f i).toNat < modulus) : Canonical (lanesOf f) := fun i => by
  simpa using h i

theorem canonical_zero : Canonical (lanesOf fun _ => 0) := canonical_lanesOf fun _ => by decide

theorem Canonical.leadingLanes {v : Lanes} (h : Canonical v) (g : Nat) : ∀ w ∈ leadingLanes g v, w.toNat < modulus := by
  intro w hw
  obtain ⟨i, hi, rfl⟩ := Vector.mem_iff_getElem.mp (Vector.mem_toList_iff.mp (List.mem_of_mem_take hw))
  exact h ⟨i, hi⟩

theorem validDigest_iff (D : Digest) : validDigest D = true ↔ ∀ w ∈ D.toList, w.toNat < modulus := by
  simp only [validDigest, List.all_eq_true, isMember_iff]

theorem Canonical.laneDigest {v : Lanes} (h : Canonical v) : validDigest (laneDigest v) = true := by
  have limbs : validDigest (Machine.laneDigest v) = true ↔
      v[0].toNat < modulus ∧ v[1].toNat < modulus ∧ v[2].toNat < modulus ∧ v[3].toNat < modulus := by
    simp [validDigest_iff, Machine.laneDigest]
  exact limbs.mpr ⟨h 0, h 1, h 2, h 3⟩

theorem digestWords_lt {Z : List Digest} (h : ∀ D ∈ Z, validDigest D = true) : ∀ w ∈ digestWords Z, w.toNat < modulus := by
  intro w hw
  obtain ⟨D, hD, hwD⟩ := List.mem_flatMap.mp hw
  exact (validDigest_iff D).mp (h D hD) w hwD

/-- The decoder tests every limb before it returns the digest (45_digest.md R214). -/
theorem validDigest_of_decodeBytes {b : List Byte} {D : Digest} (h : decodeBytes b = .ok D) : validDigest D = true := by
  unfold decodeBytes at h
  split at h
  · dsimp only at h
    split at h
    · obtain rfl := Except.ok.inj h
      assumption
    · cases h
  · cases h

theorem validDigest_of_decodeHex {t : List Byte} {D : Digest} (h : decodeHex t = .ok D) : validDigest D = true := by
  unfold decodeHex at h
  split at h
  · cases h
  · exact validDigest_of_decodeBytes h

/-! ### The scratch registers stay in range (10_state.md R24, R29) -/

/-- The scratch registers between commands, but for the phase: S, T0 and N canonical, RND in its range. -/
structure InRange (c : Config) (d : Datapath) : Prop where
  lanes : LanesCanonical d
  round : d.RND < max c.H c.RP

/-- The range speaks of no phase and of no counter. -/
theorem InRange.setSequencer {c : Config} {d : Datapath} (h : InRange c d) (ph : Phase) (ipos ocnt lvl : Nat) :
    InRange c { d with PH := ph, IPOS := ipos, OCNT := ocnt, LVL := lvl } :=
  ⟨⟨h.lanes.lanes, h.lanes.temporary, h.lanes.buffer⟩, h.round⟩

/-- New canonical lanes keep the scratch registers in range. -/
theorem InRange.setLanes {c : Config} {d : Datapath} (h : InRange c d) {v : Lanes} (hv : Canonical v) :
    InRange c { d with S := v } := ⟨⟨hv, h.lanes.temporary, h.lanes.buffer⟩, h.round⟩

theorem Hm1_lt_max (c : Config) : c.Hm1 < max c.H c.RP := lt_of_lt_of_le (Nat.lt_succ_self _) (le_max_left _ _)

theorem mix_N_canonical (T : Fin 12 → Fin 12 → Felt) (d : Datapath) : Canonical (mix T d).N :=
  canonical_lanesOf fun _ => fsum_lt _

theorem mix_S_canonical (T : Fin 12 → Fin 12 → Felt) (d : Datapath) : Canonical (mix T d).S := mix_N_canonical T d

theorem closingConstants_T0 (c : Config) (r : Nat) (d : Datapath) : (closingConstants c r d).T0 = d.T0 := by
  unfold closingConstants; split <;> rfl

theorem closingConstants_RND (c : Config) (r : Nat) (d : Datapath) : (closingConstants c r d).RND = d.RND := by
  unfold closingConstants; split <;> rfl

theorem fullRound1_T0 (c : Config) (r : Nat) (d : Datapath) : (fullRound1 c r d).T0 = d.T0 := rfl

theorem fullRound2_RND (c : Config) (r : Nat) (d : Datapath) : (fullRound2 c r d).RND = r := closingConstants_RND c r _

theorem fullRound2_T0 (c : Config) (r : Nat) (d : Datapath) : (fullRound2 c r d).T0 = d.T0 := closingConstants_T0 c r _

theorem ark0_lane_zero_lt (c : Config) (k : Nat) (d : Datapath) : (ark0 c k d).S[0].toNat < modulus := by
  simpa [ark0] using fadd_lt _ _

/-- T0 takes the lane 0 that ARK0 has just reduced. -/
theorem partialRound_T0_lt (c : Config) (r : Nat) (d : Datapath) : (partialRound c r d).T0.toNat < modulus :=
  ark0_lane_zero_lt c _ _

/-- A schedule without partial rounds leaves T0 as it was; with them, the last one writes it. -/
theorem runSchedule_T0_lt (c : Config) {d : Datapath} (h : d.T0.toNat < modulus) :
    (runSchedule c d).T0.toNat < modulus := by
  unfold runSchedule
  rw [loop_frame Datapath.T0 c.H (fullRound2_T0 c)]
  refine loop_keeps (fun e => e.T0.toNat < modulus) ?_ fun r _ e _ => partialRound_T0_lt c r e
  rw [loop_frame Datapath.T0 c.H (fullRound1_T0 c)]
  exact h

/-- A schedule ends with a round of the second half. -/
theorem runSchedule_eq_fullRound2 (c : Config) (d : Datapath) : ∃ e, runSchedule c d = fullRound2 c c.Hm1 e := ⟨_, rfl⟩

/-- A schedule leaves every register in range, whatever the lanes and N held. -/
theorem runSchedule_inRange (c : Config) {d : Datapath} (h : d.T0.toNat < modulus) : InRange c (runSchedule c d) := by
  have temporary := runSchedule_T0_lt c h
  obtain ⟨e, he⟩ := runSchedule_eq_fullRound2 c d
  rw [he] at temporary ⊢
  exact ⟨⟨mix_S_canonical _ _, temporary, mix_N_canonical _ _⟩, (fullRound2_RND c c.Hm1 e).trans_lt (Hm1_lt_max c)⟩

theorem absorbInit_inRange {c : Config} {d : Datapath} (h : InRange c d) : InRange c (absorbInit d) :=
  (h.setLanes canonical_zero).setSequencer _ _ _ _

theorem absorbBlock_inRange {c : Config} (x : List Word) (off cnt : Nat) {d : Datapath} (h : InRange c d) :
    InRange c (absorbBlock c x off cnt d) := runSchedule_inRange c h.lanes.temporary

theorem absorb_inRange {c : Config} (x : List Word) {d : Datapath} (h : InRange c d) : InRange c (absorb c x d) := by
  have full : InRange c (absorbFull c x (absorbInit d)) :=
    loop_keeps (InRange c) (absorbInit_inRange h) fun _ _ _ he => absorbBlock_inRange _ _ _ he
  unfold absorb absorbRemainder
  split
  · exact full
  · exact absorbBlock_inRange _ _ _ full

theorem squeezeGroups_inRange {c : Config} (g n : Nat) {d : Datapath} (h : InRange c d) :
    (∀ w ∈ (squeezeGroups c g n d).1, w.toNat < modulus) ∧ InRange c (squeezeGroups c g n d).2 := by
  induction g generalizing n d with
  | zero => exact ⟨by simp [squeezeGroups], h⟩
  | succ g ih =>
    have group := h.lanes.lanes.leadingLanes (min 8 n)
    unfold squeezeGroups
    dsimp only
    split
    · exact ⟨group, h.setSequencer _ _ _ _⟩
    · have next : InRange c (runSchedule c { d with PH := .squeeze, OCNT := d.OCNT + min 8 n }) :=
        runSchedule_inRange c h.lanes.temporary
      obtain ⟨words, rest⟩ := ih (n - 8) next
      exact ⟨List.forall_mem_append.mpr ⟨group, words⟩, rest⟩

theorem squeeze_inRange {c : Config} (n : Nat) {d : Datapath} (h : InRange c d) :
    (∀ w ∈ (squeeze c n d).1, w.toNat < modulus) ∧ InRange c (squeeze c n d).2 :=
  squeezeGroups_inRange _ n (h.setSequencer _ _ _ _)

theorem compressRun_inRange {c : Config} (A B : Digest) {d : Datapath} (h : InRange c d) :
    InRange c (compressRun c A B d) := runSchedule_inRange c h.lanes.temporary

theorem leafRun_inRange {c : Config} (A B : Digest) {d : Datapath} (h : InRange c d) : InRange c (leafRun c A B d) :=
  runSchedule_inRange c (compressRun_inRange A B h).lanes.temporary

theorem chainRun_inRange {c : Config} (levels : Nat) {d : Datapath} (h : InRange c d) :
    (∀ D ∈ (chainRun c levels d).1, validDigest D = true) ∧ InRange c (chainRun c levels d).2 := by
  refine loop_keeps (fun acc : List Digest × Datapath => (∀ D ∈ acc.1, validDigest D = true) ∧ InRange c acc.2)
    ⟨by simpa using (by decide : validDigest zeroDigest = true), h.setSequencer _ _ _ _⟩ ?_
  rintro k - ⟨Z, e⟩ ⟨hZ, he⟩
  have level : InRange c (chainStep c levels k (Z, e)).2 := compressRun_inRange _ _ (he.setSequencer _ _ _ _)
  exact ⟨List.forall_mem_cons.mpr ⟨level.lanes.lanes.laneDigest, hZ⟩, level⟩

/-! ### Every step keeps the invariant -/

/-- From a state that meets the invariant `run` leads to one that does. -/
def Preserves (run : State → Result) : Prop := ∀ s, Invariant s → ∃ t, run s = .next t ∧ Invariant t

theorem Invariant.inRange {s : State} (h : Invariant s) : InRange Config.installed s.dp := ⟨h.lanes, h.round⟩

theorem Invariant.deliver {s : State} (h : Invariant s) (rest : List HostEvent) : Invariant (s.deliver rest) :=
  ⟨h.lanes, h.latch, h.idle, h.round, fun _ hr => by cases hr⟩

/-- A legal response keeps the invariant. -/
theorem Invariant.respond {s : State} (h : Invariant s) {stat : BitVec 32} {out : Payload}
    (legal : Response.legal ⟨stat, out⟩) : Invariant (s.respond stat out) :=
  ⟨h.lanes, h.latch, h.idle, h.round, fun _ hr => Option.some.inj hr ▸ legal⟩

theorem Invariant.latchFault {s : State} (h : Invariant s) (cause : FaultCause) : Invariant (s.latchFault cause) :=
  ⟨h.lanes, ⟨fun hrun => (by cases hrun), fun _ => ⟨cause, rfl⟩⟩, h.idle, h.round, h.response⟩

theorem Invariant.setDatapath {s : State} (h : Invariant s) {d : Datapath} (hd : InRange Config.installed d)
    (idle : d.PH = .idle) : Invariant { s with dp := d } :=
  ⟨hd.lanes, h.latch, idle, hd.round, h.response⟩

theorem legal_ok {out : Payload} (h : out.exported) : Response.legal ⟨statusWord 0 okCode, out⟩ :=
  .inl ⟨statusWord_okCode, h⟩

theorem legal_error (e : TypedError) : Response.legal ⟨statusWord 0 e.code, emptyPayload⟩ :=
  .inr ⟨rfl, .inl ⟨e, statusWord_zero_prev _⟩⟩

theorem legal_fault (cause : FaultCause) : Response.legal ⟨statusWord 0 cause.code, emptyPayload⟩ :=
  .inr ⟨rfl, .inr (.inl ⟨cause, statusWord_zero_prev _⟩)⟩

theorem legal_halted (cause : FaultCause) : Response.legal ⟨statusWord cause.code haltedCode, emptyPayload⟩ :=
  .inr ⟨rfl, .inr (.inr ⟨cause, statusWord_haltedCode _⟩)⟩

theorem Invariant.refuseHalted {s : State} (h : Invariant s) (halted : s.FLT = true) : Invariant s.refuseHalted := by
  obtain ⟨cause, hcause⟩ := h.latch.2 halted
  exact h.respond (hcause ▸ legal_halted cause)

/-- The reset values are zeros and FLT = 0 (log 5). -/
theorem invariant_takeReset (s : State) : Invariant s.takeReset where
  lanes := ⟨canonical_zero, (by decide : (0 : Word).toNat < modulus), canonical_zero⟩
  latch := ⟨fun _ => rfl, fun h => by cases h⟩
  idle := rfl
  round := (Nat.zero_le _).trans_lt (Hm1_lt_max _)
  response := fun _ h => by cases h

theorem raiseError_preserves (e : TypedError) : Preserves (raiseError e) :=
  fun _ h => ⟨_, rfl, h.respond (legal_error e)⟩

theorem raiseFault_preserves (cause : FaultCause) : Preserves (raiseFault cause) :=
  fun _ h => ⟨_, rfl, (h.latchFault cause).respond (legal_fault cause)⟩

theorem returnOkUntouched_preserves {out : Payload} (h : out.exported) : Preserves (returnOkUntouched out) :=
  fun _ hs => ⟨_, rfl, hs.respond (legal_ok h)⟩

/-- A command that exports field elements and leaves the scratch registers in range. -/
theorem returnOk_preserves {out : State → Payload} {dp : State → Datapath}
    (h : ∀ s, InRange Config.installed s.dp → (out s).exported ∧ InRange Config.installed (dp s)) :
    Preserves fun s => returnOk (out s) (dp s) s := by
  intro s hs
  obtain ⟨hout, hdp⟩ := h s hs.inRange
  exact ⟨_, rfl, (hs.setDatapath (hdp.setSequencer .idle _ _ _) rfl).respond (legal_ok hout)⟩

theorem unload_preserves (g : Nat) {dp : State → Datapath}
    (h : ∀ s, InRange Config.installed s.dp → InRange Config.installed (dp s)) : Preserves fun s => unload g (dp s) s :=
  returnOk_preserves fun s hs => ⟨(h s hs).lanes.lanes.leadingLanes g, (h s hs).setSequencer _ _ _ _⟩

theorem returnDecoded_preserves {r : Except TypedError Digest} (h : ∀ D, r = .ok D → validDigest D = true) :
    Preserves (returnDecoded r) := by
  cases r with
  | error e => exact raiseError_preserves e
  | ok D => exact returnOkUntouched_preserves ((validDigest_iff D).mp (h D rfl))

theorem accept_preserves {run : State → Result} (h : Preserves run) : Preserves fun s => accept s run := by
  intro s hs
  cases hlatch : s.FLT with
  | true => exact ⟨_, accept_halted hlatch run, hs.refuseHalted hlatch⟩
  | false => simpa only [accept_running hlatch] using h s hs

theorem requireWidth_preserves (k : Nat) (pay : List Word) {run : State → Result} (h : Preserves run) :
    Preserves (requireWidth k pay run) := by
  unfold requireWidth
  split
  · exact h
  · exact raiseFault_preserves _

theorem requireLimbs_preserves (pay : List Word) {run : State → Result} (h : Preserves run) :
    Preserves (requireLimbs pay run) := by
  unfold requireLimbs
  split
  · exact h
  · exact raiseError_preserves _

theorem exec_preserves (i : Instr) : Preserves (exec i) := by
  cases i with
  | perm pay =>
    exact accept_preserves (requireWidth_preserves _ _ (unload_preserves _ fun _ h => runSchedule_inRange _ h.lanes.temporary))
  | sponge n pay =>
    refine accept_preserves ?_
    split
    · exact raiseFault_preserves _
    · exact returnOk_preserves fun _ h => squeeze_inRange _ (absorb_inRange _ h)
  | hashn pay => exact accept_preserves (unload_preserves _ fun _ h => absorb_inRange _ h)
  | hashp pay => exact accept_preserves (unload_preserves _ fun _ h => absorb_inRange _ h)
  | comp pay =>
    exact accept_preserves (requireWidth_preserves _ _ (requireLimbs_preserves _
      (unload_preserves _ fun _ h => compressRun_inRange _ _ (h.setSequencer _ _ _ _))))
  | leaf pay =>
    exact accept_preserves (requireWidth_preserves _ _ (requireLimbs_preserves _
      (unload_preserves _ fun _ h => leafRun_inRange _ _ (h.setSequencer _ _ _ _))))
  | zeros levels pay =>
    refine accept_preserves (requireWidth_preserves _ _ ?_)
    split
    · exact raiseFault_preserves _
    · refine returnOk_preserves fun _ h => ?_
      obtain ⟨digests, registers⟩ := chainRun_inRange levels h
      exact ⟨digestWords_lt digests, registers.setSequencer _ _ _ _⟩
  | encb pay =>
    exact accept_preserves (requireWidth_preserves _ _ (requireLimbs_preserves _ (returnOkUntouched_preserves trivial)))
  | decb pay => exact accept_preserves (returnDecoded_preserves fun _ => validDigest_of_decodeBytes)
  | ench pay =>
    exact accept_preserves (requireWidth_preserves _ _ (requireLimbs_preserves _ (returnOkUntouched_preserves trivial)))
  | dech pay => exact accept_preserves (returnDecoded_preserves fun _ => validDigest_of_decodeHex)

theorem rejectRequest_preserves : Preserves rejectRequest := accept_preserves (raiseFault_preserves .illegal)

theorem step_preserves : Preserves step := by
  intro s h
  match hs : s.inbox with
  | [] => exact ⟨_, step_nothing hs, h.deliver []⟩
  | .reset :: rest => exact ⟨_, step_reset hs, invariant_takeReset _⟩
  | .request r :: rest =>
    cases hd : decode r with
    | error _ => rw [step_rejected hs hd]; exact rejectRequest_preserves _ (h.deliver rest)
    | ok i => rw [step_command hs hd]; exact exec_preserves i _ (h.deliver rest)

/-- Settles O21: every way a command can end keeps the invariant, and so do a wait and a reset. -/
theorem stepKeepsInvariant : Obligations.StepKeepsInvariant := by
  intro s t hs hst
  obtain ⟨u, hu, h⟩ := step_preserves s hs
  exact Host.Outcome.next.inj (hst.symm.trans hu) ▸ h

/-- Settles O22: the machine after reset is one that has just taken a reset. -/
theorem invariantAtReset : Obligations.InvariantAtReset := invariant_takeReset State.reset

/-- Settles O8: the reset values of R33. -/
theorem stateAfterReset : Obligations.StateAfterReset := ⟨rfl, rfl, rfl⟩

end Sys2Proof.Machine

namespace Sys2Proof.Machine

/-! ### A permutation reads its tables within their lengths only (20_memory.md R58, R60) -/

/-- The same round counts and matrices, and the same table entries below the lengths 12·RF + RP of RC and 23·RP of SPR. -/
structure AgreeWithinTables (c c' : Config) : Prop where
  half : c.Hm1 = c'.Hm1
  partials : c.RP = c'.RP
  full : c.MDS = c'.MDS
  pre : c.PRE = c'.PRE
  constants : ∀ k < 12 * (2 * (c.Hm1 + 1)) + c.RP, c.RC k = c'.RC k
  coefficients : ∀ k < 23 * c.RP, c.SPR k = c'.SPR k

/-- Two loops with the same rounds, from the same start, are the same. -/
theorem loop_congr {α : Type} {n : Nat} {f g : Nat → α → α} (h : ∀ r < n, ∀ a, f r a = g r a) (a : α) :
    loop n f a = loop n g a :=
  loop_related Eq rfl fun r hr x _ hxy => hxy ▸ h r hr x

section
variable {c c' : Config} (h : AgreeWithinTables c c')
include h

theorem AgreeWithinTables.H_eq : c.H = c'.H := congrArg (· + 1) h.half

/-- ARK reads the twelve constants from its base on. -/
theorem AgreeWithinTables.ark_eq {base : Nat} (hbase : base + 12 ≤ 12 * (2 * (c.Hm1 + 1)) + c.RP) (d : Datapath) :
    ark c base d = ark c' base d := by
  have entry (i : Fin 12) : c.RC (base + i.val) = c'.RC (base + i.val) := h.constants _ (by omega)
  simp only [ark, entry]

/-- ARK0 reads one constant. -/
theorem AgreeWithinTables.ark0_eq {k : Nat} (hk : k < 12 * (2 * (c.Hm1 + 1)) + c.RP) (d : Datapath) :
    ark0 c k d = ark0 c' k d := by
  simp only [ark0, h.constants k hk]

/-- SPARSE reads the 23 coefficients of its round: 12 for the new lane 0, and one for each of lanes 1 to 11. -/
theorem AgreeWithinTables.sparse_eq {r : Nat} (hr : r < c.RP) (d : Datapath) : sparse c r d = sparse c' r d := by
  have firstLane (i : Fin 12) : c.SPR (23 * r + i.val) = c'.SPR (23 * r + i.val) := h.coefficients _ (by omega)
  have otherLanes (i : Fin 12) : c.SPR (23 * r + 12 + (i.val - 1)) = c'.SPR (23 * r + 12 + (i.val - 1)) :=
    h.coefficients _ (by omega)
  simp only [sparse, firstLane, otherLanes]

theorem AgreeWithinTables.fullRound1_eq {r : Nat} (hr : r < c.Hm1 + 1) (d : Datapath) :
    fullRound1 c r d = fullRound1 c' r d := by
  have constants := h.ark_eq (base := 12 * (r + 1)) (by omega)
  simp only [fullRound1, constants, h.half, h.full, h.pre]

theorem AgreeWithinTables.partialRound_eq {r : Nat} (hr : r < c.RP) (d : Datapath) :
    partialRound c r d = partialRound c' r d := by
  have constant := h.ark0_eq (k := 12 * (c.Hm1 + 1 + 1) + r) (by omega)
  unfold partialRound
  rw [← h.H_eq, h.sparse_eq hr, constant]

/-- The last round of the second half reads no constant, so the constants of the others end at the table's length. -/
theorem AgreeWithinTables.closingConstants_eq (r : Nat) (d : Datapath) :
    closingConstants c r d = closingConstants c' r d := by
  unfold closingConstants
  rw [← h.H_eq, ← h.half, ← h.partials]
  split
  · exact h.ark_eq (by dsimp only [Config.H]; omega) d
  · rfl

theorem AgreeWithinTables.fullRound2_eq (r : Nat) (d : Datapath) : fullRound2 c r d = fullRound2 c' r d := by
  simp only [fullRound2, h.closingConstants_eq, h.full]

theorem AgreeWithinTables.runSchedule_eq (d : Datapath) : runSchedule c d = runSchedule c' d := by
  unfold runSchedule
  rw [← h.H_eq, ← h.partials]
  simp only [h.ark_eq (base := 0) (by omega), loop_congr fun _ => h.fullRound1_eq, loop_congr fun _ => h.partialRound_eq,
    loop_congr fun r _ => h.fullRound2_eq r]

end

/-- Settles O34: every round of the schedule reads its tables within their lengths. -/
theorem permuteReadsTablesWithinLength : Obligations.PermuteReadsTablesWithinLength :=
  fun _ _ _ half partials full pre constants coefficients =>
    congrArg Datapath.S (AgreeWithinTables.runSchedule_eq ⟨half, partials, full, pre, constants, coefficients⟩ _)

end Sys2Proof.Machine

namespace Sys2Proof

/-! ### The fields of a request, and what decodes (30_encoding.md R81, R82, R84 to R86) -/

theorem opcOf_toNat (cmd : BitVec 32) : (opcOf cmd).toNat = cmd.toNat % 256 := by
  rw [opcOf, BitVec.extractLsb'_toNat, Nat.shiftRight_zero]

theorem argOf_eq_div (cmd : BitVec 32) : argOf cmd = cmd.toNat / 256 := by
  have := cmd.isLt
  rw [argOf, BitVec.extractLsb'_toNat, Nat.shiftRight_eq_div_pow]
  omega

theorem reservedArg_eq_ok {arg : Nat} {i j : Instr} : reservedArg arg i = .ok j ↔ arg = 0 ∧ i = j := by
  by_cases h : arg = 0 <;> simp [reservedArg, h]

theorem reservedArg_eq_error {arg : Nat} {i : Instr} {e : Illegal} (h : reservedArg arg i = .error e) : arg ≠ 0 :=
  fun hzero => by simp [reservedArg, hzero] at h

/-- The width of a command's payload units (R82). -/
def Instr.unit : Instr → Nat
  | .perm _ | .sponge _ _ | .hashn _ | .hashp _ | .comp _ | .leaf _ | .zeros _ _ | .encb _ | .ench _ => 64
  | .decb _ | .dech _ => 8

/-- The payload of a command. -/
def Instr.payload : (i : Instr) → List (BitVec i.unit)
  | .perm pay | .sponge _ pay | .hashn pay | .hashp pay | .comp pay | .leaf pay | .zeros _ pay | .encb pay | .ench pay => pay
  | .decb pay | .dech pay => pay

theorem encode_eq_frameRequest (i : Instr) : encode i = frameRequest (cmdWord i.arg i.opcode) i.payload := by
  cases i <;> rfl

theorem Instr.wf_iff (i : Instr) : i.wf = true ↔ i.arg < argLimit := by
  cases i with
  | sponge | zeros => exact decide_eq_true_iff
  | _ => exact iff_of_true rfl (by decide : 0 < argLimit)

/-- A command word with a command's opcode has that command's unit width. -/
theorem unitWidth_of_opcode {cmd : BitVec 32} {i : Instr} (h : opcOf cmd = i.opcode) : unitWidth cmd = i.unit := by
  rw [unitWidth, h]
  cases i <;> rfl

theorem Instr.opcode_legal (i : Instr) : 1 ≤ i.opcode.toNat ∧ i.opcode.toNat ≤ 11 := by
  cases i <;> simp [Instr.opcode]

theorem Instr.arg_legal (i : Instr) : i.arg = 0 ∨ i.opcode.toNat = 2 ∨ i.opcode.toNat = 7 := by
  cases i with
  | sponge => exact .inr (.inl rfl)
  | zeros => exact .inr (.inr rfl)
  | _ => exact .inl rfl

/-- A request decodes to the command that has its opcode, its argument and its payload, and to nothing else. -/
theorem decode_eq_ok_iff {r : Request} {i : Instr} : decode r = .ok i ↔
    opcOf r.cmd = i.opcode ∧ argOf r.cmd = i.arg ∧ r.pay.map (BitVec.setWidth i.unit) = i.payload := by
  constructor
  · intro h
    unfold decode at h
    split at h
    case h_2 hopc | h_7 hopc =>
      obtain rfl := Except.ok.inj h
      exact ⟨BitVec.eq_of_toNat_eq hopc, rfl, rfl⟩
    case h_12 => cases h
    all_goals
      obtain ⟨harg, rfl⟩ := reservedArg_eq_ok.mp h
      exact ⟨BitVec.eq_of_toNat_eq ‹_›, harg, rfl⟩
  · rintro ⟨hopc, harg, hpay⟩
    unfold decode
    rw [hopc, harg]
    cases i with
    | sponge | zeros => exact congrArg Except.ok (congrArg _ hpay)
    | _ => exact reservedArg_eq_ok.mpr ⟨rfl, congrArg _ hpay⟩

/-- R86: what a request that does not decode has in its command word. -/
theorem illegal_of_decode_eq_error {r : Request} {e : Illegal} (h : decode r = .error e) :
    (opcOf r.cmd).toNat = 0 ∨ 12 ≤ (opcOf r.cmd).toNat ∨
      (argOf r.cmd ≠ 0 ∧ (opcOf r.cmd).toNat ≠ 2 ∧ (opcOf r.cmd).toNat ≠ 7) := by
  unfold decode at h
  split at h
  case h_2 | h_7 => cases h
  case h_12 =>
    simp only [imp_false] at *
    omega
  all_goals
    have := reservedArg_eq_error h
    omega

/-- Settles O1: the three fields of the encoding are the command's, and they determine what decodes. -/
theorem decodeEncodeRoundTrip : Obligations.DecodeEncodeRoundTrip := by
  intro i hwf
  have hopc : opcOf (cmdWord i.arg i.opcode) = i.opcode := opcOf_cmdWord _ _
  rw [encode_eq_frameRequest, decode_eq_ok_iff]
  exact ⟨hopc, argOf_cmdWord (i.wf_iff.mp hwf) _, map_setWidth_self (unitWidth_of_opcode hopc) i.payload⟩

/-- Settles O2: a command word is its argument and its opcode, and framing the payload again changes no unit. -/
theorem encodeDecodeRoundTrip : Obligations.EncodeDecodeRoundTrip := by
  intro r i hd
  obtain ⟨hopc, harg, hpay⟩ := decode_eq_ok_iff.mp hd
  refine ⟨i.wf_iff.mpr (harg ▸ argOf_lt r.cmd), ?_⟩
  rw [encode_eq_frameRequest, ← hopc, ← harg, ← hpay, cmdWord_argOf_opcOf]
  exact congrArg (Request.mk r.cmd) (map_setWidth_self (unitWidth_of_opcode hopc).symm r.pay)

/-- Settles O3: the fields of a command are legal, and a request that does not decode has an illegal one. -/
theorem legalCommandWords : Obligations.LegalCommandWords := by
  intro r
  simp only [← opcOf_toNat, ← argOf_eq_div]
  refine ⟨⟨fun ⟨hlow, hhigh, harg⟩ => ?_, fun ⟨i, hd⟩ => ?_⟩, fun i hd => ?_⟩
  · cases hd : decode r with
    | ok i => exact ⟨i, rfl⟩
    | error e =>
      have := illegal_of_decode_eq_error hd
      omega
  · obtain ⟨hopc, harg, -⟩ := decode_eq_ok_iff.mp hd
    rw [hopc, harg]
    exact ⟨i.opcode_legal.1, i.opcode_legal.2, i.arg_legal⟩
  · obtain ⟨hopc, harg, -⟩ := decode_eq_ok_iff.mp hd
    exact ⟨congrArg BitVec.toNat hopc.symm, harg.symm⟩

/-- Settles O4: each word evaluates to its row of the opcode table, or to its reason of R86. -/
theorem sampleCommandWords : Obligations.SampleCommandWords :=
  ⟨rfl, rfl, rfl, rfl, rfl, rfl, rfl, rfl⟩

end Sys2Proof

namespace Sys2Proof.Machine

/-! ### What a step does with the request it takes (30_encoding.md R83, R86, R91) -/

theorem Ended.resp_isSome {s t : State} (h : Ended s t) : t.resp.isSome = true := by
  cases h <;> rfl

theorem raiseFault_eq (cause : FaultCause) (s : State) :
    raiseFault cause s = .next ((s.latchFault cause).respond (cause.code.setWidth 32) emptyPayload) := by
  rw [← statusWord_zero_prev]
  rfl

/-- Settles O10: every ending of a command delivers a response; the idle wait and the reset deliver none. -/
theorem oneResponsePerRequest : Obligations.OneResponsePerRequest := by
  intro s t hst
  obtain ⟨hs, rfl⟩ | ⟨rest, hs, rfl⟩ | ⟨r, rest, hs, hend⟩ := step_next_cases hst
  · simp [hs]
  · simp [hs]
  · exact iff_of_true hend.resp_isSome ⟨r, rest, hs⟩

/-- Settles O5: taking the event and withdrawing the response is `State.deliver`. -/
theorem stepRunsDecodedCommand : Obligations.StepRunsDecodedCommand :=
  fun _ _ _ _ hs hd => step_command hs hd

/-- Settles O12: by O3 such a request decodes to no command, so a running block rejects it. -/
theorem illegalRequestFaults : Obligations.IllegalRequestFaults := by
  intro s r rest hs hrun hillegal
  obtain ⟨hlegal, -⟩ := legalCommandWords r
  cases hd : decode r with
  | ok i =>
    have := hlegal.mpr ⟨i, hd⟩
    omega
  | error e =>
    calc step s = rejectRequest (s.deliver rest) := step_rejected hs hd
      _ = raiseFault .illegal (s.deliver rest) := accept_running (s := s.deliver rest) hrun _
      _ = _ := raiseFault_eq _ _

end Sys2Proof.Machine

namespace Sys2Proof.Machine

/-! ### A word as an element of Z/pZ: the field primitives are its ring operations (40_field.md R110 to R119) -/

/-- The element of Z/pZ that a word stands for. -/
def element (w : Word) : ZMod modulus := w.toNat

@[simp] theorem element_ofResidue (n : Nat) : element (ofResidue n) = n := by
  rw [element, toNat_ofResidue, ZMod.natCast_mod]

@[simp] theorem element_fadd (a b : Word) : element (fadd a b) = element a + element b :=
  (element_ofResidue _).trans (Nat.cast_add _ _)

@[simp] theorem element_fmul (a b : Word) : element (fmul a b) = element a * element b :=
  (element_ofResidue _).trans (Nat.cast_mul _ _)

@[simp] theorem element_fpow7 (a : Word) : element (fpow7 a) = element a ^ 7 :=
  (element_ofResidue _).trans (Nat.cast_pow _ _)

@[simp] theorem element_zero : element 0#64 = 0 := Nat.cast_zero

@[simp] theorem element_one : element 1#64 = 1 := Nat.cast_one

/-- Two canonical words that stand for the same element are equal (R111). -/
theorem eq_of_element_eq {a b : Word} (ha : a.toNat < modulus) (hb : b.toNat < modulus)
    (h : element a = element b) : a = b := by
  rw [element, element, ZMod.natCast_eq_natCast_iff', Nat.mod_eq_of_lt ha, Nat.mod_eq_of_lt hb] at h
  exact BitVec.eq_of_toNat_eq h

/-- Every element of Z/pZ has a canonical word. -/
theorem exists_canonical_element (x : ZMod modulus) : ∃ w : Word, w.toNat < modulus ∧ element w = x :=
  ⟨ofResidue x.val, ofResidue_lt _, (element_ofResidue _).trans (ZMod.natCast_zmod_val x)⟩

/-- Settles O27: both sides are the seventh power in Z/pZ. -/
theorem sboxIsAMultiplicationChain : Obligations.SboxIsAMultiplicationChain := by
  intro a
  refine eq_of_element_eq (fpow7_lt a) (fmul_lt _ a) ?_
  simp only [element_fpow7, element_fmul]
  ring

/-- Settles O25: the value of each primitive, and of the membership test. -/
theorem fieldPrimitivesExact : Obligations.FieldPrimitivesExact :=
  fun a b => ⟨fred_toNat a, fadd_toNat a b, fmul_toNat a b, fpow7_toNat a, isMember_iff a⟩

/-- A canonical word has a canonical opposite. -/
theorem exists_fadd_eq_zero (a : Word) : ∃ d : Word, d.toNat < modulus ∧ fadd a d = 0 := by
  obtain ⟨d, hd, hneg⟩ := exists_canonical_element (-element a)
  exact ⟨d, hd, eq_of_element_eq (fadd_lt a d) (by decide) (by simp [hneg])⟩

/-- Settles O26: each law is the law of the commutative ring Z/pZ. -/
theorem fieldRingLaws : Obligations.FieldRingLaws := by
  intro a b c
  refine ⟨?_, ?_, ?_, ?_, ?_, fun ha => ⟨?_, ?_, ?_⟩⟩
  · exact eq_of_element_eq (fadd_lt a b) (fadd_lt b a) (by simp [add_comm])
  · exact eq_of_element_eq (fmul_lt a b) (fmul_lt b a) (by simp [mul_comm])
  · exact eq_of_element_eq (fadd_lt _ c) (fadd_lt a _) (by simp [add_assoc])
  · exact eq_of_element_eq (fmul_lt _ c) (fmul_lt a _) (by simp [mul_assoc])
  · exact eq_of_element_eq (fmul_lt a _) (fadd_lt _ _) (by simp [mul_add])
  · exact eq_of_element_eq (fadd_lt a 0) ((isMember_iff a).mp ha) (by simp)
  · exact eq_of_element_eq (fmul_lt a 1) ((isMember_iff a).mp ha) (by simp)
  · simpa only [isMember_iff] using exists_fadd_eq_zero a

/-! ### The modulus is prime, so raising to the power 7 is undone by another power (R110, R115) -/

/-- R115: p - 1 = 2^32 · 3 · 5 · 17 · 257 · 65537. -/
theorem prime_dvd_modulus_pred {q : Nat} (hq : q.Prime) (h : q ∣ modulus - 1) :
    q = 2 ∨ q = 3 ∨ q = 5 ∨ q = 17 ∨ q = 257 ∨ q = 65537 := by
  have factored : modulus - 1 = 2 ^ 32 * 3 * 5 * 17 * 257 * 65537 := by decide
  simp only [factored, hq.dvd_mul] at h
  obtain (((((h | h) | h) | h) | h) | h) := h
  · exact .inl ((Nat.prime_dvd_prime_iff_eq hq Nat.prime_two).mp (hq.dvd_of_dvd_pow h))
  all_goals
    have := (Nat.prime_dvd_prime_iff_eq hq (by norm_num)).mp h
    omega

/-- The Goldilocks number is prime (R110): 7 has order p - 1, by Lucas' test. -/
theorem modulus_prime : modulus.Prime := by
  refine lucas_primality modulus 7 (by reduce_mod_char) fun q hq h => ?_
  obtain rfl | rfl | rfl | rfl | rfl | rfl := prime_dvd_modulus_pred hq h <;>
    · norm_num only
      reduce_mod_char
      decide

/-- The inverse of 7 modulo p - 1 (R115), which there is because gcd(7, p - 1) = 1. -/
def seventhRootExponent : Nat := 10540996611094048183

theorem seven_mul_seventhRootExponent : 7 * seventhRootExponent = (modulus - 1) * 4 + 1 := by decide

/-- Fermat: a power of `x` with an exponent that is 1 modulo p - 1 is `x`, for x = 0 too. -/
theorem pow_modulus_pred_mul_add_one (x : ZMod modulus) (k : Nat) : x ^ ((modulus - 1) * k + 1) = x := by
  have : Fact modulus.Prime := ⟨modulus_prime⟩
  obtain rfl | hx := eq_or_ne x 0
  · exact zero_pow (Nat.succ_ne_zero _)
  · rw [pow_succ, pow_mul, ZMod.pow_card_sub_one_eq_one hx, one_pow, one_mul]

theorem pow_seven_pow_root (x : ZMod modulus) : (x ^ 7) ^ seventhRootExponent = x := by
  rw [← pow_mul, seven_mul_seventhRootExponent, pow_modulus_pred_mul_add_one]

/-- The seventh power is a bijection of Z/pZ; its inverse is the power with the inverse exponent. -/
theorem pow_seven_bijective : Function.Bijective fun x : ZMod modulus => x ^ 7 :=
  Function.bijective_iff_has_inverse.mpr ⟨fun x => x ^ seventhRootExponent, pow_seven_pow_root, fun x =>
    (pow_right_comm x _ 7).trans (pow_seven_pow_root x)⟩

/-- Settles O28: canonical words are the elements of Z/pZ, where the S-box is the seventh power. -/
theorem sboxIsABijection : Obligations.SboxIsABijection := by
  intro b hb
  obtain ⟨x, hx : x ^ 7 = element b⟩ := pow_seven_bijective.surjective (element b)
  obtain ⟨a, ha, rfl⟩ := exists_canonical_element x
  refine ⟨a, ⟨(isMember_iff a).mpr ha, ?_⟩, fun a' ⟨ha', hroot⟩ => ?_⟩
  · exact eq_of_element_eq (fpow7_lt a) ((isMember_iff b).mp hb) ((element_fpow7 a).trans hx)
  · refine eq_of_element_eq ((isMember_iff a').mp ha') ha (pow_seven_bijective.injective ?_)
    calc element a' ^ 7 = element (fpow7 a') := (element_fpow7 a').symm
      _ = element a ^ 7 := by rw [hroot, hx]

/-! ### Every command exports canonical words, whatever the scratch registers held (40_field.md R117) -/

/-- From every state `run` delivers a response whose words are exports of field elements. -/
def Exports (run : State → Result) : Prop :=
  ∀ s, ∃ (t : State) (stat : BitVec 32) (out : Payload), run s = .next (t.respond stat out) ∧ out.exported

theorem exported_words {l : List Word} (h : ∀ w ∈ l, w.toNat < modulus) : (Payload.words l).exported := h

theorem exported_bytes (l : List Byte) : (Payload.bytes l).exported := trivial

theorem exported_emptyPayload : emptyPayload.exported := exported_words (List.forall_mem_nil _)

theorem raiseFault_exports (cause : FaultCause) : Exports (raiseFault cause) :=
  fun _ => ⟨_, _, _, rfl, exported_emptyPayload⟩

theorem raiseError_exports (e : TypedError) : Exports (raiseError e) :=
  fun _ => ⟨_, _, _, rfl, exported_emptyPayload⟩

theorem returnOk_exports {out : State → Payload} (h : ∀ s, (out s).exported) (dp : State → Datapath) :
    Exports fun s => returnOk (out s) (dp s) s := fun s => ⟨_, _, _, rfl, h s⟩

theorem returnOkUntouched_exports {out : Payload} (h : out.exported) : Exports (returnOkUntouched out) :=
  fun _ => ⟨_, _, _, rfl, h⟩

theorem unload_exports (g : Nat) {dp : State → Datapath} (h : ∀ s, Canonical (dp s).S) :
    Exports fun s => unload g (dp s) s := returnOk_exports (fun s => exported_words ((h s).leadingLanes g)) _

theorem returnDecoded_exports {r : Except TypedError Digest} (h : ∀ D, r = .ok D → validDigest D = true) :
    Exports (returnDecoded r) := by
  cases r with
  | error e => exact raiseError_exports e
  | ok D => exact returnOkUntouched_exports (exported_words ((validDigest_iff D).mp (h D rfl)))

section
variable {run : State → Result} (h : Exports run)
include h

theorem accept_exports : Exports fun s => accept s run := by
  intro s
  cases hlatch : s.FLT with
  | true => exact ⟨_, _, _, accept_halted hlatch run, exported_emptyPayload⟩
  | false => simpa only [accept_running hlatch] using h s

theorem requireWidth_exports (k : Nat) (pay : List Word) : Exports (requireWidth k pay run) := by
  unfold requireWidth
  split
  · exact h
  · exact raiseFault_exports _

theorem requireLimbs_exports (pay : List Word) : Exports (requireLimbs pay run) := by
  unfold requireLimbs
  split
  · exact h
  · exact raiseError_exports _

end

theorem runSchedule_S_canonical (c : Config) (d : Datapath) : Canonical (runSchedule c d).S := by
  obtain ⟨e, he⟩ := runSchedule_eq_fullRound2 c d
  exact he ▸ mix_S_canonical _ _

/-- The scratch registers after reset are in range, so what a command computes from them is too. -/
theorem reset_inRange : InRange Config.installed Datapath.reset := invariantAtReset.inRange

/-- The lanes after absorption are those of an absorption that starts from reset. -/
theorem absorb_S_canonical (x : List Word) (d : Datapath) : Canonical (absorb Config.installed x d).S := by
  rw [absorb_S]
  exact (absorb_inRange x reset_inRange).lanes.lanes

/-- The outputs of the sponge are those of a sponge that starts from reset. -/
theorem sponge_words_lt (n : Nat) (x : List Word) (d : Datapath) :
    ∀ w ∈ (squeeze Config.installed n (absorb Config.installed x d)).1, w.toNat < modulus := by
  have same : (absorb Config.installed x d).S = (absorb Config.installed x .reset).S := absorb_S _ x d
  rw [squeeze_fst_congr _ n same]
  exact (squeeze_inRange n (absorb_inRange x reset_inRange)).1

/-- The digests of the chain are those of a chain that starts from reset. -/
theorem chainRun_words_lt (levels : Nat) (d : Datapath) :
    ∀ w ∈ digestWords (chainRun Config.installed levels d).1, w.toNat < modulus := by
  rw [chainRun_fst_congr _ levels d .reset]
  exact digestWords_lt (chainRun_inRange levels reset_inRange).1

theorem exec_exports (i : Instr) : Exports (exec i) := by
  cases i with
  | perm pay =>
    exact accept_exports (requireWidth_exports (unload_exports _ fun _ => runSchedule_S_canonical _ _) _ _)
  | sponge n pay =>
    refine accept_exports ?_
    split
    · exact raiseFault_exports _
    · exact returnOk_exports (fun s => exported_words (sponge_words_lt n pay s.dp)) _
  | hashn pay => exact accept_exports (unload_exports _ fun _ => absorb_S_canonical _ _)
  | hashp pay => exact accept_exports (unload_exports _ fun _ => absorb_S_canonical _ _)
  | comp pay =>
    exact accept_exports (requireWidth_exports (requireLimbs_exports
      (unload_exports _ fun _ => runSchedule_S_canonical _ _) _) _ _)
  | leaf pay =>
    exact accept_exports (requireWidth_exports (requireLimbs_exports
      (unload_exports _ fun _ => runSchedule_S_canonical _ _) _) _ _)
  | zeros levels pay =>
    refine accept_exports (requireWidth_exports ?_ _ _)
    split
    · exact raiseFault_exports _
    · exact returnOk_exports (fun s => exported_words (chainRun_words_lt levels s.dp)) _
  | encb pay =>
    exact accept_exports (requireWidth_exports (requireLimbs_exports (returnOkUntouched_exports (exported_bytes _)) _) _ _)
  | decb pay => exact accept_exports (returnDecoded_exports fun _ => validDigest_of_decodeBytes)
  | ench pay =>
    exact accept_exports (requireWidth_exports (requireLimbs_exports (returnOkUntouched_exports (exported_bytes _)) _) _ _)
  | dech pay => exact accept_exports (returnDecoded_exports fun _ => validDigest_of_decodeHex)

/-- Settles O24: every command exports canonical words, from every state. -/
theorem exportedWordsBelowModulus : Obligations.ExportedWordsBelowModulus := by
  intro i s t stat ws ht hresp
  obtain ⟨u, stat', out, hu, hout⟩ := exec_exports i s
  obtain rfl := Host.Outcome.next.inj (ht.symm.trans hu)
  obtain ⟨-, rfl⟩ := Response.mk.inj (Option.some.inj hresp)
  exact hout

end Sys2Proof.Machine

namespace Sys2Proof.Machine

/-! ### The value of a sum over the lanes (40_field.md R111, R119) -/

@[simp] theorem element_feltWord (x : Felt) : element (feltWord x) = (x.val : ZMod modulus) := by
  rw [element, feltWord_toNat]

theorem element_foldl_fadd {ι : Type} (f : ι → Word) (l : List ι) (a : Word) :
    element (l.foldl (fun acc i => fadd acc (f i)) a) = element a + (l.map fun i => element (f i)).sum := by
  induction l generalizing a with
  | nil => simp
  | cons i l ih => simp [ih, add_assoc]

@[simp] theorem element_fsum (f : Fin 12 → Word) : element (fsum f) = ∑ i, element (f i) := by
  rw [fsum, element_foldl_fadd, Fin.sum_univ_def]
  simp

@[simp] theorem natCast_toNat (w : Word) : (w.toNat : ZMod modulus) = element w := rfl

/-- The value of a canonical word is the residue of any number that stands for the same element. -/
theorem toNat_eq_mod_of_element {w : Word} (hw : w.toNat < modulus) {n : Nat} (h : element w = n) :
    w.toNat = n % modulus := by
  rw [element, ZMod.natCast_eq_natCast_iff'] at h
  rw [← h, Nat.mod_eq_of_lt hw]

/-- The value of a sum of products over the lanes: the integer sum, reduced once. -/
theorem fsum_fmul_toNat (f g : Fin 12 → Word) :
    (fsum fun i => fmul (f i) (g i)).toNat = (∑ i, (f i).toNat * (g i).toNat) % modulus :=
  toNat_eq_mod_of_element (fsum_lt _) (by simp)

/-- The value of a multiply-and-add: the integer value, reduced once. -/
theorem fadd_fmul_toNat (a b c : Word) : (fadd a (fmul b c)).toNat = (a.toNat + b.toNat * c.toNat) % modulus :=
  toNat_eq_mod_of_element (fadd_lt _ _) (by simp)

/-! ### The lanes after each micro-operation (41_permutation.md R132 to R136, R138) -/

/-- A write of lane 0 leaves the other lanes alone. -/
theorem lane_set_zero_of_ne (v : Lanes) (w : Word) {i : Fin 12} (hi : i ≠ 0) : (v.set 0 w)[i] = v[i] :=
  Vector.getElem_set_ne _ _ fun h => hi (Fin.ext h.symm)

section
variable (c : Config) (k : Nat) (d : Datapath)

@[simp] theorem ark_lane (i : Fin 12) : (ark c k d).S[i] = fadd d.S[i] (feltWord (c.RC (k + i))) :=
  lanesOf_getElem _ i i.isLt

@[simp] theorem sbox_lane (i : Fin 12) : (sbox d).S[i] = fpow7 d.S[i] := lanesOf_getElem _ i i.isLt

@[simp] theorem mix_lane (T : Fin 12 → Fin 12 → Felt) (i : Fin 12) :
    (mix T d).S[i] = fsum fun j => fmul d.S[j] (feltWord (T j i)) := lanesOf_getElem _ i i.isLt

@[simp] theorem sbox0_lane_zero : (sbox0 d).S[0] = fpow7 d.S[0] := Vector.getElem_set_self _

@[simp] theorem ark0_lane_zero : (ark0 c k d).S[0] = fadd d.S[0] (feltWord (c.RC k)) := Vector.getElem_set_self _

theorem sbox0_lane_of_ne {i : Fin 12} (hi : i ≠ 0) : (sbox0 d).S[i] = d.S[i] := lane_set_zero_of_ne _ _ hi

theorem ark0_lane_of_ne {i : Fin 12} (hi : i ≠ 0) : (ark0 c k d).S[i] = d.S[i] := lane_set_zero_of_ne _ _ hi

theorem sparse_lane_zero : (sparse c k d).S[0] = fsum fun i => fmul (feltWord (c.SPR (23 * k + i))) d.S[i] := by
  rw [sparse_eq_sparseApart]
  exact lanesOf_getElem _ 0 (by decide)

theorem sparse_lane_of_ne {i : Fin 12} (hi : i ≠ 0) :
    (sparse c k d).S[i] = fadd d.S[i] (fmul (feltWord (c.SPR (23 * k + 12 + (i - 1)))) d.S[0]) := by
  rw [sparse_eq_sparseApart]
  exact (lanesOf_getElem _ i i.isLt).trans (if_neg hi)

end

/-- Settles O30: each new lane is a sum of products, and MIX copies its buffer to the lanes. -/
theorem mixIsRowVectorTimesMatrix : Obligations.MixIsRowVectorTimesMatrix := by
  intro T d
  refine ⟨fun i => ?_, rfl, rfl⟩
  rw [mix_lane, fsum_fmul_toNat]
  simp only [feltWord_toNat]

/-- Settles O31: the lanes of SPARSE are those of its rule; lane 0 is the copy of N[0]. -/
theorem sparseUsesPreUpdateLaneZero : Obligations.SparseUsesPreUpdateLaneZero := by
  intro c r d
  refine ⟨?_, fun i hi => ?_, rfl, ?_, fun i hi => lane_set_zero_of_ne _ _ hi, rfl⟩
  · rw [sparse_lane_zero, fsum_fmul_toNat]
    simp only [feltWord_toNat]
  · rw [sparse_lane_of_ne c r d hi, fadd_fmul_toNat, feltWord_toNat]
  · exact (Vector.getElem_set_self _).symm

/-- Settles O29: the value of the field primitive that each micro-operation applies to the lanes it writes. -/
theorem laneMicroOperations : Obligations.LaneMicroOperations := by
  intro c base d
  refine ⟨fun i => ?_, fun i => ?_, ?_, ?_, fun i hi => ⟨sbox0_lane_of_ne d hi, ark0_lane_of_ne c base d hi⟩,
    rfl, rfl, rfl, rfl⟩
  · rw [ark_lane, fadd_toNat, feltWord_toNat]
  · rw [sbox_lane, fpow7_toNat]
  · rw [sbox0_lane_zero, fpow7_toNat]
  · rw [ark0_lane_zero, fadd_toNat, feltWord_toNat]

/-! ### The rounds (41_permutation.md R137, R139, R140) -/

/-- Entering a round moves the sequencer and leaves the lanes alone, so what only reads lanes does not see it. -/
theorem LaneLocal.enterRound {f : Datapath → Datapath} (hf : LaneLocal f) (ph : Phase) (r : Nat) (d : Datapath) :
    (f (enterRound ph r d)).S = (f d).S := hf _ _ rfl

theorem closingConstants_of_lt {c : Config} {r : Nat} (hr : r < c.Hm1) (d : Datapath) :
    closingConstants c r d = ark c (12 * (c.H + 1) + c.RP + 12 * r) d := if_pos hr

theorem closingConstants_last (c : Config) (d : Datapath) : closingConstants c c.Hm1 d = d := if_neg (lt_irrefl _)

theorem full1Matrix_of_lt {c : Config} {r : Nat} (hr : r < c.Hm1) : full1Matrix c r = c.MDS := if_neg hr.ne

theorem full1Matrix_last (c : Config) : full1Matrix c c.Hm1 = c.PRE := if_pos rfl

theorem fullRound1_S (c : Config) (r : Nat) (d : Datapath) :
    (fullRound1 c r d).S = (mix (full1Matrix c r) (ark c (12 * (r + 1)) (sbox d))).S :=
  ((mix_laneLocal _).comp ((ark_laneLocal c _).comp sbox_laneLocal)).enterRound _ r d

theorem partialRound_S (c : Config) (r : Nat) (d : Datapath) :
    (partialRound c r d).S = (sparse c r (ark0 c (12 * (c.H + 1) + r) (sbox0 d))).S :=
  ((sparse_laneLocal c r).comp ((ark0_laneLocal c _).comp sbox0_laneLocal)).enterRound _ r d

theorem fullRound2_S (c : Config) (r : Nat) (d : Datapath) :
    (fullRound2 c r d).S = (mix c.MDS (closingConstants c r (sbox d))).S :=
  ((mix_laneLocal _).comp ((closingConstants_laneLocal c r).comp sbox_laneLocal)).enterRound _ r d

/-- Settles O32: the lanes after each round, with the matrix of the first half and the constants of the second half by cases. -/
theorem roundsFollowTheirRules : Obligations.RoundsFollowTheirRules := by
  intro c r d
  refine ⟨fun hr => ?_, ?_, fun _ => partialRound_S c r d, fun hr => ?_, ?_⟩
  · rw [fullRound1_S, full1Matrix_of_lt hr]
  · rintro rfl
    rw [fullRound1_S, full1Matrix_last]
  · rw [fullRound2_S, closingConstants_of_lt hr]
  · rintro rfl
    rw [fullRound2_S, closingConstants_last]

/-! ### PERM on a running block (41_permutation.md R142) -/

/-- The scratch registers after PERM: the load, the schedule, and the unload of twelve lanes. -/
def permScratch (c : Config) (pay : List Word) (d : Datapath) : Datapath :=
  { runSchedule c (loadw pay 0 12 { d with PH := .load }) with PH := .idle, OCNT := 12 }

/-- An unload of twelve lanes is an unload of all. -/
theorem leadingLanes_twelve (v : Lanes) : leadingLanes 12 v = v.toList := List.take_of_length_le v.length_toList.le

theorem permOn_running (c : Config) {pay : List Word} {s : State} (hrun : s.FLT = false) (hpay : pay.length = 12) :
    permOn c pay s = .next { s with
      dp := permScratch c pay s.dp, resp := some ⟨0x00000000#32, .words (permScratch c pay s.dp).S.toList⟩ } := by
  rw [permOn, accept_running hrun, requireWidth_met hpay, unload, leadingLanes_twelve, returnOk, statusWord_okCode]
  rfl

/-- A load of twelve words fills the lanes with their reductions. -/
theorem loadw_toList_S (w : Lanes) (d : Datapath) : (loadw w.toList 0 12 d).S = w.map fred := by
  rw [loadw_twelve_S]
  apply Vector.ext
  intro i hi
  simp

theorem permScratch_S (c : Config) (w : Lanes) (d : Datapath) :
    (permScratch c w.toList d).S = permute c (w.map fred) := by
  rw [permScratch, runSchedule_S, loadw_toList_S]

/-- Settles O36: PERM runs the schedule on the reduced payload, and a schedule leaves LVL alone. -/
theorem permRuns : Obligations.PermRuns := by
  intro w s hrun
  refine ⟨permScratch Config.installed w.toList s.dp, ?_, permScratch_S _ w _, rfl, runSchedule_LVL _ _⟩
  rw [← permScratch_S _ w s.dp]
  exact permOn_running Config.installed hrun w.length_toList

/-! ### The sequencer runs the schedule (41_permutation.md R145) -/

/-- The sequencer between two rounds or phases: the next line is a first one, and nothing is unloaded yet. -/
def between (pay : List Word) (d : Datapath) : Sequencer := { dp := d, line := .first, pay := pay, out := [] }

theorem advanceRound_of_lt {n : Nat} (ph : Phase) {d : Datapath} (h : d.RND + 1 < n) :
    advanceRound n ph d = enterRound d.PH (d.RND + 1) d := if_pos h

theorem advanceRound_last {n : Nat} (ph : Phase) {d : Datapath} (h : d.RND + 1 = n) :
    advanceRound n ph d = enterRound ph 0 d := if_neg h.not_lt

theorem advanceFull2_of_lt {n : Nat} {d : Datapath} (h : d.RND + 1 < n) :
    advanceFull2 n d = enterRound d.PH (d.RND + 1) d := if_pos h

theorem advanceFull2_last {n : Nat} {d : Datapath} (h : d.RND + 1 = n) : advanceFull2 n d = { d with PH := .unload } :=
  if_neg h.not_lt

theorem fullRound1_RND (c : Config) (r : Nat) (d : Datapath) : (fullRound1 c r d).RND = r := rfl

theorem closingConstants_PH (c : Config) (r : Nat) (d : Datapath) : (closingConstants c r d).PH = d.PH := by
  unfold closingConstants; split <;> rfl

theorem fullRound2_PH (c : Config) (r : Nat) (d : Datapath) : (fullRound2 c r d).PH = .full2 := closingConstants_PH c r _

section
variable (c : Config) (pay : List Word) (d : Datapath)

/-- The load and the initial constants. -/
theorem seqRun_begin : seqRun c 2 (seqStart pay d) = between pay (enterRound .full1 0
    (ark c 0 { loadw pay 0 12 { d with PH := .load } with PH := .arkInit, OCNT := 0 })) := rfl

theorem seqRun_fullRound1 (r : Nat) : seqRun c 3 (between pay (enterRound .full1 r d)) =
    between pay (advanceRound c.H (afterFull1 c) (fullRound1 c r d)) := rfl

theorem seqRun_partialRound (r : Nat) : seqRun c 3 (between pay (enterRound .partialRounds r d)) =
    between pay (advanceRound c.RP .full2 (partialRound c r d)) := rfl

/-- The S-box of the second half: whether constants come next depends on the round. -/
theorem seqStep_sbox_full2 (r : Nat) : seqStep c (between pay (enterRound .full2 r d)) =
    { dp := sbox (enterRound .full2 r d), line := if r < c.Hm1 then .second else .third, pay := pay, out := [] } := rfl

theorem seqRun_fullRound2 {r : Nat} (hr : r < c.Hm1) : seqRun c 3 (between pay (enterRound .full2 r d)) =
    between pay (advanceFull2 c.H (fullRound2 c r d)) := by
  rw [seqRun, seqStep_sbox_full2, if_pos hr, fullRound2, closingConstants_of_lt hr]
  rfl

/-- The last round of the second half adds no constants, so it is two steps. -/
theorem seqRun_fullRound2_last : seqRun c 2 (between pay (enterRound .full2 c.Hm1 d)) =
    between pay (advanceFull2 c.H (fullRound2 c c.Hm1 d)) := by
  rw [seqRun, seqStep_sbox_full2, if_neg (lt_irrefl _), fullRound2, closingConstants_last]
  rfl

/-- Rounds that are three steps each and lead to the next round of their phase are a loop of the schedule. -/
theorem seqRun_rounds {ph : Phase} {body : Nat → Datapath → Datapath} {n : Nat}
    (round : ∀ r < n, ∀ e, seqRun c 3 (between pay (enterRound ph r e)) = between pay (enterRound ph (r + 1) (body r e))) :
    seqRun c (3 * n) (between pay (enterRound ph 0 d)) = between pay (enterRound ph n (loop n body d)) := by
  induction n with
  | zero => rfl
  | succ n ih =>
    rw [Nat.mul_succ, seqRun_add, ih fun r hr => round r (Nat.lt_succ_of_lt hr), round n (Nat.lt_succ_self n), loop]

theorem seqRun_firstHalf : seqRun c (3 * c.H) (between pay (enterRound .full1 0 d)) =
    between pay (enterRound (afterFull1 c) 0 (loop c.H (fullRound1 c) d)) := by
  have round : ∀ r < c.Hm1, ∀ e, seqRun c 3 (between pay (enterRound .full1 r e)) =
      between pay (enterRound .full1 (r + 1) (fullRound1 c r e)) := fun r hr e =>
    (seqRun_fullRound1 c pay e r).trans (congrArg _ (advanceRound_of_lt _ (Nat.succ_lt_succ hr)))
  rw [Nat.mul_succ, seqRun_add, seqRun_rounds c pay d round, seqRun_fullRound1,
    advanceRound_last _ (congrArg (· + 1) (fullRound1_RND c c.Hm1 _)), loop]

/-- The partial rounds lead to the second half; where there are none, the first half does (R141 step 3). -/
theorem seqRun_partialRounds : seqRun c (3 * c.RP) (between pay (enterRound (afterFull1 c) 0 d)) =
    between pay (enterRound .full2 0 (loop c.RP (partialRound c) d)) := by
  cases hRP : c.RP with
  | zero => rw [afterFull1, if_pos hRP]; rfl
  | succ m =>
    have round : ∀ r < m, ∀ e, seqRun c 3 (between pay (enterRound .partialRounds r e)) =
        between pay (enterRound .partialRounds (r + 1) (partialRound c r e)) := fun r hr e =>
      (seqRun_partialRound c pay e r).trans (congrArg _ (advanceRound_of_lt _ (hRP ▸ Nat.succ_lt_succ hr)))
    rw [afterFull1, if_neg (by omega), Nat.mul_succ, seqRun_add, seqRun_rounds c pay d round, seqRun_partialRound,
      advanceRound_last _ hRP.symm, loop]

theorem seqRun_secondHalf : seqRun c (3 * c.Hm1 + 2) (between pay (enterRound .full2 0 d)) =
    between pay { loop c.H (fullRound2 c) d with PH := .unload } := by
  have round : ∀ r < c.Hm1, ∀ e, seqRun c 3 (between pay (enterRound .full2 r e)) =
      between pay (enterRound .full2 (r + 1) (fullRound2 c r e)) := fun r hr e => by
    have next : (fullRound2 c r e).RND + 1 < c.H := (fullRound2_RND c r e).symm ▸ Nat.succ_lt_succ hr
    rw [seqRun_fullRound2 c pay e hr, advanceFull2_of_lt next, fullRound2_RND, fullRound2_PH]
  rw [seqRun_add, seqRun_rounds c pay d round, seqRun_fullRound2_last,
    advanceFull2_last (congrArg (· + 1) (fullRound2_RND c c.Hm1 _)), loop]

/-- From LOAD to UNLOAD the sequencer runs the schedule. -/
theorem seqRun_schedule : seqRun c (2 + (3 * c.H + (3 * c.RP + (3 * c.Hm1 + 2)))) (seqStart pay d) =
    between pay { runSchedule c (loadw pay 0 12 { d with PH := .load }) with PH := .unload, OCNT := 0 } := by
  have output := runSchedule_setOCNT c 0 (loadw pay 0 12 { d with PH := .load })
  rw [seqRun_add, seqRun_begin, seqRun_add, seqRun_firstHalf, seqRun_add, seqRun_partialRounds, seqRun_secondHalf]
  exact congrArg (fun e : Datapath => between pay { e with PH := .unload }) output

/-- From LOAD to IDLE the sequencer does what PERM does. -/
theorem seqRun_perm : seqRun c (6 * (c.Hm1 + 1) + 3 * c.RP + 2) (seqStart pay d) =
    { dp := permScratch c pay d, line := .first, pay := pay, out := (permScratch c pay d).S.toList } := by
  have steps : 6 * (c.Hm1 + 1) + 3 * c.RP + 2 = 2 + (3 * c.H + (3 * c.RP + (3 * c.Hm1 + 2))) + 1 := by
    dsimp only [Config.H]; omega
  rw [steps, seqRun_add, seqRun_schedule, ← leadingLanes_twelve]
  rfl

end

/-- Settles O35: the sequencer ends with the scratch registers and the response of PERM. -/
theorem sequencerRunsTheSchedule : Obligations.SequencerRunsTheSchedule := by
  intro c pay d
  dsimp only
  rw [seqRun_perm]
  refine ⟨rfl, rfl, ?_⟩
  rintro s rfl hrun hpay
  exact permOn_running c hrun hpay

end Sys2Proof.Machine

namespace Sys2Proof.Machine

/-! ### Absorption, block by block (42_sponge.md R161 to R164) -/

/-- R163: a block overwrites the leading lanes with reduced words, then costs one permutation. -/
theorem absorbBlock_S (c : Config) (x : List Word) (off cnt : Nat) (d : Datapath) :
    (absorbBlock c x off cnt d).S =
      permute c (lanesOf fun i => if i.val < cnt then fred (x.getD (off + i.val) 0) else d.S[i]) := by
  rw [absorbBlock, runSchedule_S, loadw_S]

/-- A load reads `cnt` words from its offset on, and each through its reduction. -/
theorem loadw_congr {x y : List Word} {off cnt : Nat}
    (h : ∀ i < cnt, fred (x.getD (off + i) 0) = fred (y.getD (off + i) 0)) (d : Datapath) :
    loadw x off cnt d = loadw y off cnt d := by
  have lane (i : Fin 12) : (if i.val < cnt then fred (x.getD (off + i.val) 0) else d.S[i]) =
      if i.val < cnt then fred (y.getD (off + i.val) 0) else d.S[i] := by
    split
    · exact h i ‹_›
    · rfl
  simp only [loadw, lane]

theorem absorbBlock_congr (c : Config) {x y : List Word} {off cnt : Nat}
    (h : ∀ i < cnt, fred (x.getD (off + i) 0) = fred (y.getD (off + i) 0)) (d : Datapath) :
    absorbBlock c x off cnt d = absorbBlock c y off cnt d :=
  congrArg (runSchedule c) (loadw_congr h _)

theorem absorb_of_whole_blocks (c : Config) {x : List Word} (h : x.length % 8 = 0) (d : Datapath) :
    absorb c x d = absorbFull c x (absorbInit d) := if_pos h

/-- The full blocks of `x` are the first blocks of every longer sequence. -/
theorem absorbFull_append (c : Config) (x b : List Word) (d : Datapath) :
    loop (x.length / 8) (fun r => absorbBlock c (x ++ b) (8 * r) 8) d = absorbFull c x d :=
  loop_congr (fun r hr => absorbBlock_congr c fun i hi => congrArg fred (List.getD_append x b 0 (8 * r + i) (by omega))) d

/-- R163, R164: after whole blocks, 1 to 8 further words are one more block, full or not. -/
theorem absorb_append_block (c : Config) {x b : List Word} (hx : x.length % 8 = 0) (hpos : 1 ≤ b.length)
    (hb : b.length ≤ 8) (d : Datapath) :
    absorb c (x ++ b) d = absorbBlock c (x ++ b) x.length b.length (absorb c x d) := by
  have offset : 8 * (x.length / 8) = x.length := by omega
  have length : (x ++ b).length = x.length + b.length := List.length_append
  rw [absorb_of_whole_blocks c hx, ← absorbFull_append c x b]
  obtain hfull | hpart := hb.eq_or_lt
  · have blocks : (x ++ b).length / 8 = x.length / 8 + 1 := by omega
    rw [absorb_of_whole_blocks c (by omega), absorbFull, blocks, loop, offset, hfull]
  · have blocks : (x ++ b).length / 8 = x.length / 8 := by omega
    have remainder : (x ++ b).length % 8 = b.length := by omega
    rw [absorb, absorbRemainder, absorbFull, if_neg (by omega), blocks, remainder, offset]

/-- R161, R165: nothing absorbed is the all-zero state. -/
theorem absorbLanes_nil (c : Config) : absorbLanes c [] = Vector.replicate 12 0 := rfl

/-- Settles O37: the further elements are one block more. -/
theorem absorbOneBlock : Obligations.AbsorbOneBlock := by
  intro c x b
  refine ⟨absorbLanes_nil c, fun hx hpos hb => ?_⟩
  have further (i : Nat) : (x ++ b).getD (x.length + i) 0 = b.getD i 0 := by
    rw [List.getD_append_right _ _ _ _ (Nat.le_add_right _ _), Nat.add_sub_cancel_left]
  rw [absorbLanes, absorb_append_block c hx hpos hb, absorbBlock_S]
  simp only [further, absorb_S]

/-- R162: a load reduces each word, so reducing the payload first changes nothing. -/
theorem absorb_map_fred (c : Config) (x : List Word) (d : Datapath) : absorb c (x.map fred) d = absorb c x d := by
  have word (k : Nat) : (x.map fred).getD k 0 = fred (x.getD k 0) := List.getD_map x 0 fred
  have reduced (k : Nat) : fred ((x.map fred).getD k 0) = fred (x.getD k 0) := by rw [word, fred_fred]
  have block (off cnt : Nat) : absorbBlock c (x.map fred) off cnt = absorbBlock c x off cnt :=
    funext (absorbBlock_congr c fun i _ => reduced (off + i))
  simp only [absorb, absorbRemainder, absorbFull, block, List.length_map]

/-- Absorption leaves the level index alone. -/
theorem absorb_LVL (c : Config) (x : List Word) (d : Datapath) : (absorb c x d).LVL = d.LVL := by
  have block (off cnt : Nat) (e : Datapath) : (absorbBlock c x off cnt e).LVL = e.LVL := runSchedule_LVL c _
  have full : (absorbFull c x (absorbInit d)).LVL = d.LVL := loop_frame Datapath.LVL _ (fun r => block (8 * r) 8) _
  unfold absorb absorbRemainder
  split
  · exact full
  · exact (block _ _ _).trans full

/-! ### Squeezing, group by group (42_sponge.md R167) -/

/-- The last group: no permutation follows it. -/
theorem squeezeGroups_last (c : Config) (g : Nat) {n : Nat} (h : n ≤ 8) (d : Datapath) :
    squeezeGroups c (g + 1) n d = (leadingLanes n d.S, { d with PH := .squeeze, OCNT := d.OCNT + n }) := by
  simp only [squeezeGroups, if_pos h, Nat.min_eq_right h]

/-- A group that another follows: eight lanes, then a permutation. -/
theorem squeezeGroups_more (c : Config) (g : Nat) {n : Nat} (h : 8 < n) (d : Datapath) :
    squeezeGroups c (g + 1) n d =
      (leadingLanes 8 d.S ++
        (squeezeGroups c g (n - 8) (runSchedule c { d with PH := .squeeze, OCNT := d.OCNT + 8 })).1,
      (squeezeGroups c g (n - 8) (runSchedule c { d with PH := .squeeze, OCNT := d.OCNT + 8 })).2) := by
  simp only [squeezeGroups, if_neg h.not_ge, Nat.min_eq_left h.le]

theorem leadingLanes_length {g : Nat} (h : g ≤ 12) (v : Lanes) : (leadingLanes g v).length = g := by
  rw [leadingLanes, List.length_take, v.length_toList, Nat.min_eq_left h]

theorem leadingLanes_getElem? {g t : Nat} (ht : t < g) (hg : g ≤ 12) (v : Lanes) :
    (leadingLanes g v)[t]? = some v[t]! := by
  have inside : t < 12 := by omega
  rw [leadingLanes, List.getElem?_take_of_lt ht, getElem!_pos v t inside]
  simp [inside]

/-- R167: as many outputs as asked for, when there are groups enough. -/
theorem squeezeGroups_length (c : Config) {g n : Nat} (h : n ≤ 8 * g) (d : Datapath) :
    (squeezeGroups c g n d).1.length = n := by
  induction g generalizing n d with
  | zero => exact (Nat.le_zero.mp h).symm
  | succ g ih =>
    obtain hlast | hmore := le_or_gt n 8
    · rw [squeezeGroups_last c g hlast]
      exact leadingLanes_length (by omega) _
    · rw [squeezeGroups_more c g hmore, List.length_append, leadingLanes_length (by decide), ih (by omega)]
      omega

/-- R167: output `t` is lane t mod 8 of group ⌊t / 8⌋, and each group costs one permutation more. -/
theorem squeezeGroups_getElem? (c : Config) {g n t : Nat} (h : n ≤ 8 * g) (ht : t < n) (d : Datapath) :
    (squeezeGroups c g n d).1[t]? = some ((permute c)^[t / 8] d.S)[t % 8]! := by
  induction g generalizing n t d with
  | zero => omega
  | succ g ih =>
    have first (m : Nat) (hm : m ≤ 8) (htm : t < m) :
        (leadingLanes m d.S)[t]? = some ((permute c)^[t / 8] d.S)[t % 8]! := by
      rw [leadingLanes_getElem? htm (by omega), Nat.div_eq_of_lt (by omega), Nat.mod_eq_of_lt (by omega)]
      rfl
    obtain hlast | hmore := le_or_gt n 8
    · rw [squeezeGroups_last c g hlast]
      exact first n hlast ht
    · have length : (leadingLanes 8 d.S).length = 8 := leadingLanes_length (by decide) _
      rw [squeezeGroups_more c g hmore]
      obtain hfirst | hlater := lt_or_ge t 8
      · rw [List.getElem?_append_left (hfirst.trans_eq length.symm)]
        exact first 8 le_rfl hfirst
      · have group : t / 8 = (t - 8) / 8 + 1 := by omega
        have lane : t % 8 = (t - 8) % 8 := by omega
        rw [List.getElem?_append_right (length.trans_le hlater), length, ih (by omega) (by omega), runSchedule_S, group, lane,
          Function.iterate_succ_apply]

/-- Squeezing leaves the level index alone. -/
theorem squeezeGroups_LVL (c : Config) (g n : Nat) (d : Datapath) : (squeezeGroups c g n d).2.LVL = d.LVL := by
  induction g generalizing n d with
  | zero => rfl
  | succ g ih =>
    obtain hlast | hmore := le_or_gt n 8
    · rw [squeezeGroups_last c g hlast]
    · rw [squeezeGroups_more c g hmore]
      exact (ih _ _).trans (runSchedule_LVL c _)

theorem squeeze_LVL (c : Config) (n : Nat) (d : Datapath) : (squeeze c n d).2.LVL = d.LVL := squeezeGroups_LVL c _ n _

/-! ### The sponge (42_sponge.md R160, R165, R166) -/

theorem sponge_length (c : Config) (x : List Word) (n : ℕ+) : (sponge c x n).length = n :=
  squeezeGroups_length c (by omega) _

theorem sponge_getElem? (c : Config) (x : List Word) {n : ℕ+} {t : Nat} (ht : t < n) :
    (sponge c x n)[t]? = some ((permute c)^[t / 8] (absorbLanes c x))[t % 8]! :=
  squeezeGroups_getElem? c (by omega) ht _

/-- Settles O38: ⌈n / 8⌉ groups hold the n outputs. -/
theorem squeezeElements : Obligations.SqueezeElements :=
  fun c x n => ⟨sponge_length c x n, fun _ => sponge_getElem? c x⟩

/-- R165: the first eight outputs of the empty input are lanes of the zero state. -/
theorem sponge_nil_getElem? (c : Config) {n : ℕ+} {t : Nat} (ht : t < n) (hfirst : t < 8) :
    (sponge c [] n)[t]? = some 0 := by
  have inside : t < 12 := by omega
  rw [sponge_getElem? c [] ht, absorbLanes_nil, Nat.div_eq_of_lt hfirst, Nat.mod_eq_of_lt hfirst, Function.iterate_zero_apply,
    getElem!_pos _ t inside, Vector.getElem_replicate]

/-- Settles O39: by O38, of the zero state that absorbing nothing leaves. -/
theorem emptySpongeIsZeros : Obligations.EmptySpongeIsZeros := by
  intro c n
  refine ⟨absorbLanes_nil c, fun hn => ?_, fun _ t ht => ⟨sponge_nil_getElem? c ht, fun hlater => ?_⟩⟩
  · have hn : (n : Nat) ≤ 8 := hn
    refine List.eq_replicate_iff.mpr ⟨sponge_length c [] n, fun w hw => ?_⟩
    obtain ⟨t, ht, rfl⟩ := List.mem_iff_getElem.mp hw
    have ht' : t < n := sponge_length c [] n ▸ ht
    exact Option.some.inj ((List.getElem?_eq_getElem ht).symm.trans (sponge_nil_getElem? c ht' (by omega)))
  · have group : t / 8 = t / 8 - 1 + 1 := by omega
    rw [sponge_getElem? c [] ht, absorbLanes_nil, group, Function.iterate_succ_apply, Nat.add_sub_cancel]

/-- The outputs after absorption into any scratch registers are those of the sponge of the reduced words. -/
theorem squeeze_absorb_fst (c : Config) (pay : List Word) (n : ℕ+) (d : Datapath) :
    (squeeze c n (absorb c pay d)).1 = sponge c (pay.map fred) n := by
  rw [sponge, absorb_map_fred]
  exact squeeze_fst_congr c n (absorb_S c pay d)

theorem returnOk_eq (out : Payload) (d : Datapath) (s : State) :
    returnOk out d s = .next { s with dp := { d with PH := .idle }, resp := some ⟨0#32, out⟩ } := by
  rw [returnOk, statusWord_okCode]
  rfl

/-- Settles O40: the state's own scratch registers give the outputs of the sponge, and neither loop writes LVL. -/
theorem spongeRuns : Obligations.SpongeRuns := by
  intro n pay s hrun
  refine ⟨{ (squeeze Config.installed n (absorb Config.installed pay s.dp)).2 with PH := .idle }, ?_, rfl,
    (squeeze_LVL _ n _).trans (absorb_LVL _ pay s.dp)⟩
  rw [exec_sponge, accept_running hrun, if_neg n.ne_zero, squeeze_absorb_fst, returnOk_eq]

/-! ### Zero counts (60_exceptions.md R243, R251 step 5) -/

/-- Settles O16: on a running block the count is the next check of SPONGE; for ZEROS the width check stands before it. -/
theorem zeroCountsFault : Obligations.ZeroCountsFault := by
  intro pay s hrun
  constructor
  · rw [exec_sponge, accept_running hrun, if_pos rfl, raiseFault_eq]
    rfl
  · rw [exec_zeros, accept_running hrun, requireWidth_met List.length_nil, if_pos rfl, raiseFault_eq]
    rfl

end Sys2Proof.Machine

namespace Sys2Proof.Machine

/-! ### HashNoPad and its four limbs (43_hash.md R180) -/

/-- R167: up to eight outputs are one group, the leading lanes after absorption. -/
theorem sponge_eq_leadingLanes (c : Config) (x : List Word) {n : ℕ+} (h : (n : Nat) ≤ 8) :
    sponge c x n = leadingLanes n (absorbLanes c x) := by
  have oneGroup : ((n : Nat) + 7) / 8 = 0 + 1 := by have := n.pos; omega
  rw [sponge, squeeze, oneGroup, squeezeGroups_last c 0 h, absorbLanes]

theorem laneDigest_toList (v : Lanes) : (laneDigest v).toList = leadingLanes 4 v := by
  apply List.ext_getElem
  · simp [leadingLanes]
  · intro i hi _
    have hi : i < 4 := by simpa using hi
    interval_cases i <;> simp [laneDigest, leadingLanes]

theorem digestAt_toList (D : Digest) : digestAt D.toList 0 = D := by
  apply Vector.ext
  intro i hi
  interval_cases i <;> simp [digestAt]

/-- The digest of a sequence is lanes 0 to 3 after its absorption. -/
theorem hashNoPad_eq_laneDigest (c : Config) (x : List Word) : hashNoPad c x = laneDigest (absorbLanes c x) := by
  rw [hashNoPad, sponge_eq_leadingLanes c x (by decide), PNat.val_ofNat, ← laneDigest_toList, digestAt_toList]

/-- R180: the limbs of the digest are the four outputs of the sponge. -/
theorem hashNoPad_toList (c : Config) (x : List Word) : (hashNoPad c x).toList = sponge c x 4 := by
  rw [hashNoPad_eq_laneDigest, laneDigest_toList, sponge_eq_leadingLanes c x (by decide), PNat.val_ofNat]

/-! ### The commands HASHN and HASHP (43_hash.md R181, R182, R184) -/

/-- The scratch registers after a hash of `x`: its absorption, then an unload of four lanes. -/
def hashScratch (c : Config) (x : List Word) (d : Datapath) : Datapath :=
  { absorb c x d with PH := .idle, OCNT := 4 }

theorem hashScratch_LVL (c : Config) (x : List Word) (d : Datapath) : (hashScratch c x d).LVL = d.LVL := absorb_LVL c x d

/-- Lanes 0 to 3 after an absorption into any scratch registers are the limbs of the digest of the reduced words. -/
theorem leadingLanes_absorb (c : Config) (x : List Word) (d : Datapath) :
    leadingLanes 4 (absorb c x d).S = (hashNoPad c (x.map fred)).toList := by
  rw [hashNoPad_eq_laneDigest, laneDigest_toList, ← absorb_S c (x.map fred) d, absorb_map_fred]

/-- The unload of four lanes after an absorption answers the digest of the reduced words. -/
theorem unload_absorb (c : Config) (x : List Word) (s : State) :
    unload 4 (absorb c x s.dp) s = .next { s with
      dp := hashScratch c x s.dp, resp := some ⟨0#32, .words (hashNoPad c (x.map fred)).toList⟩ } := by
  rw [unload, returnOk_eq, leadingLanes_absorb]
  rfl

/-- Settles O41: HASHN absorbs the payload and unloads four lanes. -/
theorem hashnRuns : Obligations.HashnRuns := by
  intro pay s hrun
  refine ⟨hashScratch Config.installed pay s.dp, ?_, rfl, hashScratch_LVL _ pay _⟩
  rw [exec_hashn, accept_running hrun, unload_absorb]

/-- Settles O42: both are refused alike on a halted block; on a running one the four limbs are the four outputs. -/
theorem hashnAnswersAsSpongeFour : Obligations.HashnAnswersAsSpongeFour := by
  intro pay s
  cases hs : s.FLT with
  | true =>
    rw [exec_hashn, exec_sponge, accept_halted hs, accept_halted hs]
    exact ⟨_, _, rfl, rfl, rfl⟩
  | false =>
    obtain ⟨_, limbs, -⟩ := hashnRuns pay s hs
    obtain ⟨_, outputs, -⟩ := spongeRuns 4 pay s hs
    exact ⟨_, _, limbs, outputs, by simp only [hashNoPad_toList]⟩

/-- The padding of reduced words is reduced already: it adds zeros and ones only. -/
theorem pad_map_fred (x : List Word) : (pad x).map fred = pad (x.map fred) := by
  have zero : fred 0 = 0 := fred_of_canonical (by decide)
  have one : fred 1 = 1 := fred_of_canonical (by decide)
  simp only [pad, List.map_append, List.map_replicate, List.map_cons, List.map_nil, List.length_map, zero, one]

/-- Settles O44: the padded words are absorbed as they are, since they are reduced. -/
theorem hashpRuns : Obligations.HashpRuns := by
  intro pay s hrun
  have reduced : (pad (pay.map fred)).map fred = pad (pay.map fred) := by
    rw [pad_map_fred, List.map_map]
    exact congrArg pad (List.map_congr_left fun w _ => fred_fred w)
  refine ⟨hashScratch Config.installed (pad (pay.map fred)) s.dp, ?_, rfl, hashScratch_LVL _ _ _⟩
  rw [exec_hashp, accept_running hrun, unload_absorb, reduced]

/-! ### Padding (43_hash.md R183) -/

theorem padZeros_lt (k : Nat) : padZeros k < 12 := Nat.mod_lt _ (by decide)

/-- R183 step 2: the zeros bring the leading 1 and the input to a multiple of 12. -/
theorem padZeros_aligns (k : Nat) : (k + 1 + padZeros k) % 12 = 0 := by
  unfold padZeros
  omega

theorem pad_length (x : List Word) : (pad x).length = x.length + 1 + padZeros x.length + 1 := by
  simp [pad]
  omega

/-- Settles O43: the zeros are those that padding counts, and the last 1 makes the length 1 modulo 12. -/
theorem padShape : Obligations.PadShape := by
  intro x
  have aligned := padZeros_aligns x.length
  refine ⟨padZeros x.length, rfl, padZeros_lt _, aligned, ?_⟩
  rw [pad_length]
  omega

end Sys2Proof.Machine

namespace Sys2Proof.Machine

/-! ### The compressions as permutations (44_tree.md R191, R193, R194) -/

theorem compress_eq_laneDigest (c : Config) (A B : Digest) : compress c A B = laneDigest (permute c (digestLanes A B)) :=
  congrArg laneDigest (compressRun_S c A B _)

/-- R194: the lanes after a leaf compression, whatever the scratch registers held. -/
theorem leafRun_S (c : Config) (A B : Digest) (d : Datapath) :
    let t := permute c (digestLanes A B)
    (leafRun c A B d).S = permute c #v[1, 1, 0, 1, t[4], t[5], t[6], t[7], t[8], t[9], t[10], t[11]] := by
  rw [leafRun, runSchedule_S, tagLeaf_S, compressRun_S]

/-- Settles O46: each permutation of a compression is a function of the lanes it starts from. -/
theorem compressionsByPermutation : Obligations.CompressionsByPermutation :=
  fun c A B => ⟨compress_eq_laneDigest c A B, congrArg laneDigest (leafRun_S c A B _)⟩

/-- The words that two digests put into the lanes are their limbs, in order, then zeros. -/
theorem digestLanes_getElem (A B : Digest) (i : Fin 12) : (digestLanes A B)[i] = (A.toList ++ B.toList).getD i 0 := by
  fin_cases i <;> simp [digestLanes]

theorem validDigests_limbs {A B : Digest} (hA : validDigest A = true) (hB : validDigest B = true) :
    ∀ w ∈ A.toList ++ B.toList, w.toNat < modulus :=
  List.forall_mem_append.mpr ⟨(validDigest_iff A).mp hA, (validDigest_iff B).mp hB⟩

theorem twoDigests_length (A B : Digest) : (A.toList ++ B.toList).length = 8 := by simp

/-- R193: eight limbs are one block, absorbed into the zero state. -/
theorem absorbLanes_twoDigests (c : Config) {A B : Digest} (hA : validDigest A = true) (hB : validDigest B = true) :
    absorbLanes c (A.toList ++ B.toList) = permute c (digestLanes A B) := by
  have lane (i : Fin 12) : (if i.val < 8 then fred ((A.toList ++ B.toList).getD i 0) else (absorbLanes c [])[i]) =
      (digestLanes A B)[i] := by
    rw [digestLanes_getElem]
    split
    next hi =>
      rw [List.getD_eq_getElem _ _ (by rw [twoDigests_length]; exact hi)]
      exact fred_of_canonical (validDigests_limbs hA hB _ (List.getElem_mem _))
    next hi =>
      rw [List.getD_eq_default _ _ (by rw [twoDigests_length]; exact not_lt.mp hi), absorbLanes_nil]
      exact Vector.getElem_replicate _
  obtain ⟨-, block⟩ := absorbOneBlock c [] (A.toList ++ B.toList)
  have block := block rfl (by rw [twoDigests_length]; decide) (twoDigests_length A B).le
  rw [List.nil_append, twoDigests_length] at block
  rw [block]
  simp only [lane, lanesOf_lanes]

/-- Settles O47: both are lanes 0 to 3 of one permutation of the same lanes. -/
theorem compressIsHashOfEight : Obligations.CompressIsHashOfEight := by
  intro c A B hA hB
  rw [compress_eq_laneDigest, hashNoPad_eq_laneDigest, absorbLanes_twoDigests c hA hB]

/-! ### The commands COMP and LEAF (44_tree.md R190, R192, R195) -/

theorem digestAt_append_left (A : Digest) (pay : List Word) : digestAt (A.toList ++ pay) 0 = A := by
  have limb (i : Nat) (hi : i < 4) : (A.toList ++ pay).getD i 0 = A.toList.getD i 0 :=
    List.getD_append _ _ _ _ (A.length_toList.symm ▸ hi)
  have sameLimbs : digestAt (A.toList ++ pay) 0 = digestAt A.toList 0 := by
    simp only [digestAt, Nat.zero_add, limb, Nat.reduceLT]
  rw [sameLimbs, digestAt_toList]

theorem digestAt_append_right (A : Digest) (pay : List Word) : digestAt (A.toList ++ pay) 4 = digestAt pay 0 := by
  have limb (i : Nat) : (A.toList ++ pay).getD (4 + i) 0 = pay.getD i 0 := by
    rw [List.getD_append_right _ _ _ _ (by simp), A.length_toList, Nat.add_sub_cancel_left]
  simp only [digestAt, Nat.zero_add, ← limb]

/-- Two valid digests pass every check of COMP and LEAF, and the command runs on them. -/
theorem withTwoDigests_valid {A B : Digest} {s : State} (hrun : s.FLT = false) (hA : validDigest A = true)
    (hB : validDigest B = true) (run : Digest → Digest → Datapath → State → Result) :
    withTwoDigests (A.toList ++ B.toList) run s = run A B { s.dp with PH := .load, IPOS := 8 } s := by
  rw [withTwoDigests, accept_running hrun, requireWidth_met (twoDigests_length A B),
    requireLimbs_met (validDigests_limbs hA hB), digestAt_append_left, digestAt_append_right,
    digestAt_toList]

/-- The unload of four lanes answers the limbs of the digest that they hold. -/
theorem unload_four {d : Datapath} {D : Digest} (h : laneDigest d.S = D) (s : State) :
    unload 4 d s = .next { s with dp := { d with PH := .idle, OCNT := 4 }, resp := some ⟨0#32, .words D.toList⟩ } := by
  rw [unload, returnOk_eq, ← laneDigest_toList, h]

theorem laneDigest_compressRun (c : Config) (A B : Digest) (d : Datapath) :
    laneDigest (compressRun c A B d).S = compress c A B :=
  congrArg laneDigest ((compressRun_S c A B d).trans (compressRun_S c A B _).symm)

theorem laneDigest_leafRun (c : Config) (A B : Digest) (d : Datapath) :
    laneDigest (leafRun c A B d).S = compressLeaf c A B :=
  congrArg laneDigest (leafRun_S_congr c A B d _)

theorem leafRun_LVL (c : Config) (A B : Digest) (d : Datapath) : (leafRun c A B d).LVL = d.LVL :=
  (runSchedule_LVL c _).trans (runSchedule_LVL c _)

/-- Settles O48: valid operands pass the checks, and the digest in lanes 0 to 3 does not depend on the scratch registers. -/
theorem treeCommandsRun : Obligations.TreeCommandsRun := by
  intro A B s hrun hA hB
  constructor
  · have checked := withTwoDigests_valid hrun hA hB fun A B d => unload 4 (compressRun Config.installed A B d)
    exact ⟨_, checked.trans (unload_four (laneDigest_compressRun _ A B _) s), rfl, runSchedule_LVL _ _⟩
  · have checked := withTwoDigests_valid hrun hA hB fun A B d => unload 4 (leafRun Config.installed A B d)
    exact ⟨_, checked.trans (unload_four (laneDigest_leafRun _ A B _) s), rfl, leafRun_LVL _ A B _⟩

/-! ### The chain of empty subtrees, level by level (44_tree.md R197, R199) -/

theorem emptyChain_one (c : Config) : emptyChain c 1 = [zeroDigest] := rfl

/-- One level more is one digest more at the root's end; the digests below it do not depend on the depth. -/
theorem emptyChain_succ (c : Config) (n : ℕ+) :
    emptyChain c (n + 1) =
      compress c ((emptyChain c n).headD zeroDigest) ((emptyChain c n).headD zeroDigest) :: emptyChain c n := by
  obtain ⟨k, hk⟩ : ∃ k, (n : Nat) = k + 1 := Nat.exists_eq_add_one.mpr n.pos
  have below : (loop k (chainStep c (k + 2)) ([zeroDigest], { Datapath.reset with LVL := k + 1 })).1 = emptyChain c n := by
    rw [emptyChain, hk]
    exact loop_related (fun x y : List Digest × Datapath => x.1 = y.1) rfl fun _ _ _ _ h => by simp only [chainStep_fst, h]
  have top : emptyChain c (n + 1) = (chainRun c (k + 2) .reset).1 := by rw [emptyChain, PNat.add_coe, hk]; rfl
  rw [top, compress_eq_laneDigest, ← below]
  exact chainStep_fst c _ _ _

theorem emptyChain_length (c : Config) (n : ℕ+) : (emptyChain c n).length = n := by
  induction n using PNat.recOn with
  | one => rfl
  | succ n ih => rw [emptyChain_succ, List.length_cons, ih, PNat.add_coe, PNat.one_coe]

theorem emptyChain_getElem?_zero (c : Config) (n : ℕ+) :
    (emptyChain c n)[0]? = some ((emptyChain c n).headD zeroDigest) := by
  have nonempty : emptyChain c n ≠ [] := List.ne_nil_of_length_pos (emptyChain_length c n ▸ n.pos)
  obtain ⟨Z, rest, chain⟩ := List.exists_cons_of_ne_nil nonempty
  rw [chain]
  rfl

theorem emptyChain_getElem?_last (c : Config) (n : ℕ+) : (emptyChain c n)[(n : Nat) - 1]? = some zeroDigest := by
  induction n using PNat.recOn with
  | one => rfl
  | succ n ih =>
    have index : ((n + 1 : ℕ+) : Nat) - 1 = (n : Nat) - 1 + 1 := by
      have := n.pos
      rw [PNat.add_coe, PNat.one_coe]
      omega
    rw [emptyChain_succ, index, List.getElem?_cons_succ, ih]

/-- R199: every digest of the chain but the last is the compression of the next one with itself. -/
theorem emptyChain_getElem?_compress (c : Config) (n : ℕ+) {i : Nat} (hi : i + 1 < n) :
    ∃ Z, (emptyChain c n)[i + 1]? = some Z ∧ (emptyChain c n)[i]? = some (compress c Z Z) := by
  induction n using PNat.recOn generalizing i with
  | one => exact absurd hi (by simp)
  | succ n ih =>
    rw [emptyChain_succ]
    cases i with
    | zero => exact ⟨_, emptyChain_getElem?_zero c n, rfl⟩
    | succ i => exact ih (by rw [PNat.add_coe, PNat.one_coe] at hi; omega)

/-- Settles O49: by induction on the depth, which adds a digest at the root's end. -/
theorem emptyChainRecurrence : Obligations.EmptyChainRecurrence :=
  fun c levels =>
    ⟨emptyChain_length c levels, emptyChain_getElem?_last c levels, fun _ => emptyChain_getElem?_compress c levels⟩

theorem emptyChain_suffix (c : Config) {m n : ℕ+} (h : m ≤ n) : emptyChain c m <:+ emptyChain c n := by
  induction n using PNat.recOn with
  | one => rw [le_antisymm h one_le]
  | succ n ih =>
    obtain rfl | hlt := h.eq_or_lt
    · exact List.suffix_rfl
    · rw [emptyChain_succ]
      exact (ih (PNat.lt_add_one_iff.mp hlt)).trans (List.suffix_cons _ _)

/-- Settles O50: a suffix is what stays after as many digests are dropped as its length is short. -/
theorem emptyChainSuffix : Obligations.EmptyChainSuffix := by
  intro c m n h
  have kept := List.suffix_iff_eq_drop.mp (emptyChain_suffix c h)
  rw [emptyChain_length, emptyChain_length] at kept
  exact kept.symm

/-! ### The command ZEROS (44_tree.md R198) -/

theorem chainRun_IPOS (c : Config) (levels : Nat) (d : Datapath) : (chainRun c levels d).2.IPOS = d.IPOS :=
  loop_frame (fun acc : List Digest × Datapath => acc.2.IPOS) (levels - 1) (fun _ _ => runSchedule_IPOS c _) _

/-- Settles O51: the digests do not depend on the scratch registers, and no level writes IPOS. -/
theorem zerosRuns : Obligations.ZerosRuns := by
  intro levels s hrun
  refine ⟨{ (chainRun Config.installed levels s.dp).2 with PH := .idle, OCNT := 4 * levels }, ?_, rfl, chainRun_IPOS _ _ _⟩
  rw [exec_zeros, accept_running hrun, requireWidth_met List.length_nil, if_neg levels.ne_zero,
    chainRun_fst_congr _ _ s.dp .reset, returnOk_eq]
  rfl

/-! ### The range check of digest operands (44_tree.md R190, 45_digest.md R213) -/

theorem raiseError_eq (e : TypedError) (s : State) :
    raiseError e s = .next { s with resp := some ⟨e.code.setWidth 32, .words []⟩ } := by
  rw [raiseError, statusWord_zero_prev]
  rfl

/-- A payload of the right length with a limb out of range is the typed error, whatever the command would do with it. -/
theorem limb_out_of_range {k : Nat} {pay : List Word} {s : State} (hrun : s.FLT = false) (hlen : pay.length = k)
    (hlimb : ∃ w ∈ pay, modulus ≤ w.toNat) (run : State → Result) :
    accept s (requireWidth k pay (requireLimbs pay run)) = .next { s with resp := some ⟨0x00000002#32, .words []⟩ } := by
  rw [accept_running hrun, requireWidth_met hlen, requireLimbs_failed hlimb, raiseError_eq]
  rfl

/-- Settles O17: the four commands make the same checks, each at its own length. -/
theorem digestOperandRangeChecked : Obligations.DigestOperandRangeChecked := by
  intro pay s hrun hlimb
  refine ⟨fun hlen => ?_, fun hlen => ?_⟩
  · rw [exec_comp, exec_leaf]
    exact ⟨limb_out_of_range hrun hlen hlimb _, limb_out_of_range hrun hlen hlimb _⟩
  · rw [exec_encb, exec_ench]
    exact ⟨limb_out_of_range hrun hlen hlimb _, limb_out_of_range hrun hlen hlimb _⟩

end Sys2Proof.Machine

namespace Sys2Proof.Machine

/-! ### The big-endian value of a sequence of bytes (20_memory.md R51, 45_digest.md R214) -/

/-- The bytes are the digits of the value in base 256, the last byte the lowest. -/
theorem bigEndian_eq_ofDigits (l : List Byte) : bigEndian l = Nat.ofDigits 256 (l.map BitVec.toNat).reverse := by
  induction l using List.reverseRecOn with
  | nil => rfl
  | append_singleton l b ih =>
    rw [List.map_append, List.reverse_append, List.map_singleton, List.reverse_singleton, List.singleton_append,
      Nat.ofDigits_cons, ← ih, add_comm]
    simp [bigEndian]

theorem byteDigits_lt (l : List Byte) : ∀ d ∈ (l.map BitVec.toNat).reverse, d < 256 := by
  simp only [List.mem_reverse, List.mem_map, forall_exists_index, and_imp, forall_apply_eq_imp_iff₂]
  exact fun b _ => b.isLt

theorem bigEndian_append (a b : List Byte) : bigEndian (a ++ b) = bigEndian a * 256 ^ b.length + bigEndian b := by
  simp only [bigEndian_eq_ofDigits, List.map_append, List.reverse_append, Nat.ofDigits_append, List.length_reverse,
    List.length_map]
  ring

theorem bigEndian_lt (l : List Byte) : bigEndian l < 256 ^ l.length := by
  simpa [bigEndian_eq_ofDigits] using Nat.ofDigits_lt_base_pow_length (by decide) (byteDigits_lt l)

/-- Sequences of one length are told apart by their values. -/
theorem bigEndian_injective {a b : List Byte} (hlen : a.length = b.length) (h : bigEndian a = bigEndian b) : a = b := by
  rw [bigEndian_eq_ofDigits, bigEndian_eq_ofDigits] at h
  have digits := Nat.ofDigits_inj_of_len_eq (by decide) (by simpa using hlen) (byteDigits_lt a) (byteDigits_lt b) h
  exact List.map_injective_iff.mpr (fun _ _ => BitVec.eq_of_toNat_eq) (List.reverse_injective digits)

theorem bigEndian_ofFn (f : Fin 8 → Byte) : bigEndian (List.ofFn f) = ∑ u : Fin 8, (f u).toNat * 256 ^ (7 - u.val) := by
  simp [bigEndian, Fin.sum_univ_eight]
  ring

/-! ### The eight bytes of a limb (20_memory.md R51) -/

theorem limbBytes_eq_ofFn (v : Word) : limbBytes v = List.ofFn fun t : Fin 8 => v.extractLsb' (56 - 8 * t.val) 8 := rfl

@[simp] theorem limbBytes_length (v : Word) : (limbBytes v).length = 8 := rfl

theorem limbBytes_getElem? (v : Word) {t : Nat} (ht : t < 8) : (limbBytes v)[t]? = some (v.extractLsb' (56 - 8 * t) 8) := by
  simp [limbBytes, ht]

@[simp] theorem bigEndian_limbBytes (v : Word) : bigEndian (limbBytes v) = v.toNat := by
  rw [limbBytes_eq_ofFn, bigEndian_ofFn]
  simp [Fin.sum_univ_eight, Nat.shiftRight_eq_div_pow]
  omega

/-! ### The groups of a buffer (45_digest.md R211, R214) -/

/-- The bytes that hold limb `t` of a buffer: its group `3 - t` (R214). -/
def limbGroup (b : List Byte) (t : Nat) : List Byte := (b.drop (8 * (3 - t))).take 8

theorem limbGroup_length {b : List Byte} (hlen : b.length = 32) (t : Nat) : (limbGroup b t).length = 8 := by
  rw [limbGroup, List.length_take, List.length_drop, hlen]
  omega

theorem limbGroup_eq_ofFn {b : List Byte} (hlen : b.length = 32) (t : Nat) :
    limbGroup b t = List.ofFn fun u : Fin 8 => b.getD (8 * (3 - t) + u.val) 0 := by
  apply List.ext_getElem
  · rw [limbGroup_length hlen, List.length_ofFn]
  · intro i hi _
    rw [limbGroup_length hlen] at hi
    rw [List.getElem_ofFn, List.getD_eq_getElem _ _ (by omega)]
    simp [limbGroup]

/-- The groups of a buffer, in order, are the buffer. -/
theorem limbGroups_append {b : List Byte} (hlen : b.length = 32) :
    limbGroup b 3 ++ (limbGroup b 2 ++ (limbGroup b 1 ++ limbGroup b 0)) = b := by
  have last : limbGroup b 0 = b.drop 24 := List.take_of_length_le (by rw [List.length_drop, hlen])
  have cut (k : Nat) : (b.drop k).take 8 ++ b.drop (k + 8) = b.drop k := by
    rw [← List.drop_drop, List.take_append_drop]
  calc limbGroup b 3 ++ (limbGroup b 2 ++ (limbGroup b 1 ++ limbGroup b 0))
    _ = limbGroup b 3 ++ (limbGroup b 2 ++ b.drop 16) := by rw [last]; exact congrArg _ (congrArg _ (cut 16))
    _ = limbGroup b 3 ++ b.drop 8 := congrArg _ (cut 8)
    _ = b := cut 0

/-- A group is never reduced: eight bytes fit a word. -/
theorem limbOf_toNat (b : List Byte) (t : Nat) : (limbOf b t).toNat = bigEndian (limbGroup b t) := by
  have bound : bigEndian (limbGroup b t) < 2 ^ 64 :=
    (bigEndian_lt _).trans_le (Nat.pow_le_pow_right (n := 256) (by decide) (List.length_take_le 8 _))
  rw [limbOf, BitVec.toNat_ofNat]
  exact Nat.mod_eq_of_lt bound

theorem limbOf_eq_sum {b : List Byte} (hlen : b.length = 32) (t : Nat) :
    (limbOf b t).toNat = ∑ u : Fin 8, (b.getD (8 * (3 - t) + u.val) 0).toNat * 256 ^ (7 - u.val) := by
  rw [limbOf_toNat, limbGroup_eq_ofFn hlen, bigEndian_ofFn]

theorem limbBytes_limbOf {b : List Byte} (hlen : b.length = 32) (t : Nat) : limbBytes (limbOf b t) = limbGroup b t :=
  bigEndian_injective (limbGroup_length hlen t).symm ((bigEndian_limbBytes _).trans (limbOf_toNat b t))

/-! ### The binary encoding (45_digest.md R211) -/

theorem digest_toList (D : Digest) : D.toList = [D[0], D[1], D[2], D[3]] := by
  apply List.ext_getElem
  · simp
  · intro i hi _
    have hi : i < 4 := by simpa using hi
    interval_cases i <;> simp

theorem encodeBytes_eq (D : Digest) :
    encodeBytes D = limbBytes D[3] ++ (limbBytes D[2] ++ (limbBytes D[1] ++ limbBytes D[0])) := by
  rw [encodeBytes, digest_toList]
  simp

theorem encodeBytes_length (D : Digest) : (encodeBytes D).length = 32 := by
  rw [encodeBytes_eq]
  rfl

theorem limbGroup_encodeBytes (D : Digest) (t : Fin 4) : limbGroup (encodeBytes D) t = limbBytes D[t] := by
  rw [encodeBytes_eq]
  fin_cases t <;> rfl

theorem encodeBytes_getElem? (D : Digest) {g t : Nat} (hg : g < 4) (ht : t < 8) :
    (encodeBytes D)[8 * g + t]? = some (D[3 - g]!.extractLsb' (56 - 8 * t) 8) := by
  have group : limbGroup (encodeBytes D) (3 - g) = limbBytes D[3 - g]! := by
    rw [getElem!_pos D (3 - g) (by omega)]
    exact limbGroup_encodeBytes D ⟨3 - g, by omega⟩
  rw [limbGroup, Nat.sub_sub_self (Nat.le_of_lt_succ hg)] at group
  rw [← List.getElem?_drop, ← List.getElem?_take_of_lt ht, group, limbBytes_getElem? _ ht]

/-- R52: the encoding is the 256-bit integer of the limbs. -/
theorem bigEndian_encodeBytes (D : Digest) : bigEndian (encodeBytes D) =
    D[3].toNat * 2 ^ 192 + D[2].toNat * 2 ^ 128 + D[1].toNat * 2 ^ 64 + D[0].toNat := by
  simp only [encodeBytes_eq, bigEndian_append, List.length_append, limbBytes_length, bigEndian_limbBytes]
  ring

/-- Settles O52: the encoding is four groups, and group g is the eight bytes of limb 3 - g. -/
theorem encodeBytesPositions : Obligations.EncodeBytesPositions :=
  fun D => ⟨encodeBytes_length D, fun _ _ => encodeBytes_getElem? D, bigEndian_encodeBytes D⟩

/-! ### The binary decoder (45_digest.md R214, R216) -/

/-- The four limbs that stand in a buffer, before they are tested (R214). -/
def bufferDigest (b : List Byte) : Digest := #v[limbOf b 0, limbOf b 1, limbOf b 2, limbOf b 3]

theorem bufferDigest_getElem (b : List Byte) (t : Fin 4) : (bufferDigest b)[t] = limbOf b t := by
  fin_cases t <;> rfl

theorem bufferDigest_encodeBytes (D : Digest) : bufferDigest (encodeBytes D) = D := by
  have limb (t : Fin 4) : (bufferDigest (encodeBytes D))[t] = D[t] := by
    apply BitVec.eq_of_toNat_eq
    rw [bufferDigest_getElem, limbOf_toNat, limbGroup_encodeBytes, bigEndian_limbBytes]
  exact Vector.ext fun i hi => limb ⟨i, hi⟩

theorem encodeBytes_bufferDigest {b : List Byte} (hlen : b.length = 32) : encodeBytes (bufferDigest b) = b :=
  calc encodeBytes (bufferDigest b)
    _ = limbBytes (limbOf b 3) ++ (limbBytes (limbOf b 2) ++ (limbBytes (limbOf b 1) ++ limbBytes (limbOf b 0))) :=
      encodeBytes_eq _
    _ = b := by simp only [limbBytes_limbOf hlen, limbGroups_append hlen]

theorem validDigest_bufferDigest_iff (b : List Byte) :
    validDigest (bufferDigest b) = true ↔ ∀ t < 4, (limbOf b t).toNat < modulus := by
  simp only [validDigest_iff, Vector.mem_toList_iff, Vector.forall_mem_iff_forall_getElem]
  exact forall₂_congr fun t ht => by rw [← bufferDigest_getElem b ⟨t, ht⟩]; rfl

theorem decodeBytes_wrong_length {b : List Byte} (hlen : b.length ≠ 32) : decodeBytes b = .error .length := if_neg hlen

theorem decodeBytes_out_of_range {b : List Byte} (hlen : b.length = 32) (h : ¬ validDigest (bufferDigest b) = true) :
    decodeBytes b = .error .range := (if_pos hlen).trans (if_neg h)

theorem decodeBytes_in_range {b : List Byte} (hlen : b.length = 32) (h : validDigest (bufferDigest b) = true) :
    decodeBytes b = .ok (bufferDigest b) := (if_pos hlen).trans (if_pos h)

/-- Settles O53: the limbs that the decoder tests and returns are the big-endian values of the groups. -/
theorem decodeBytesByGroups : Obligations.DecodeBytesByGroups := by
  intro b v
  refine ⟨decodeBytes_wrong_length, fun hlen ⟨t, ht, hbig⟩ => ?_, fun hlen hsmall => ?_⟩
  · refine decodeBytes_out_of_range hlen fun hvalid => ?_
    have small := (validDigest_bufferDigest_iff b).mp hvalid t ht
    rw [limbOf_eq_sum hlen] at small
    exact absurd small (not_lt.mpr hbig)
  · have valid := (validDigest_bufferDigest_iff b).mpr fun t ht => (limbOf_eq_sum hlen t).trans_lt (hsmall t ht)
    refine ⟨_, decodeBytes_in_range hlen valid, fun t => ?_⟩
    rw [bufferDigest_getElem, limbOf_eq_sum hlen]

/-- What decodes is exactly what a valid digest is encoded to. -/
theorem decodeBytes_eq_ok_iff {b : List Byte} {D : Digest} :
    decodeBytes b = .ok D ↔ validDigest D = true ∧ encodeBytes D = b := by
  constructor
  · intro h
    refine ⟨validDigest_of_decodeBytes h, ?_⟩
    by_cases hlen : b.length = 32
    · by_cases hvalid : validDigest (bufferDigest b) = true
      · obtain rfl := Except.ok.inj ((decodeBytes_in_range hlen hvalid).symm.trans h)
        exact encodeBytes_bufferDigest hlen
      · cases (decodeBytes_out_of_range hlen hvalid).symm.trans h
    · cases (decodeBytes_wrong_length hlen).symm.trans h
  · rintro ⟨hvalid, rfl⟩
    rw [decodeBytes_in_range (encodeBytes_length D) (by rwa [bufferDigest_encodeBytes]), bufferDigest_encodeBytes]

/-- Settles O54: both directions are the one characterisation of what decodes. -/
theorem binaryRoundTrip : Obligations.BinaryRoundTrip :=
  ⟨fun _ hD => decodeBytes_eq_ok_iff.mpr ⟨hD, rfl⟩, fun _ _ h => (decodeBytes_eq_ok_iff.mp h).2⟩

end Sys2Proof.Machine

namespace Sys2Proof.Machine

/-! ### The nibbles of a sequence of bytes (45_digest.md R217, R221) -/

/-- The nibbles of a sequence of bytes, the high one of each byte first. -/
def nibbles (bs : List Byte) : List (BitVec 4) := bs.flatMap fun b => [b.extractLsb' 4 4, b.extractLsb' 0 4]

@[simp] theorem nibbles_nil : nibbles [] = [] := rfl

@[simp] theorem nibbles_cons (b : Byte) (bs : List Byte) :
    nibbles (b :: bs) = b.extractLsb' 4 4 :: b.extractLsb' 0 4 :: nibbles bs := rfl

theorem nibbles_length (bs : List Byte) : (nibbles bs).length = 2 * bs.length := by
  induction bs with
  | nil => rfl
  | cons b bs ih =>
    rw [nibbles_cons, List.length_cons, List.length_cons, ih, List.length_cons]
    ring

theorem nibbles_getElem? (bs : List Byte) (j : Nat) :
    (nibbles bs)[2 * j]? = bs[j]?.map (·.extractLsb' 4 4) ∧ (nibbles bs)[2 * j + 1]? = bs[j]?.map (·.extractLsb' 0 4) := by
  induction bs generalizing j with
  | nil => exact ⟨rfl, rfl⟩
  | cons b bs ih =>
    cases j with
    | zero => exact ⟨rfl, rfl⟩
    | succ j => exact ih j

theorem nibbles_getD (bs : List Byte) (j : Nat) :
    (nibbles bs).getD (2 * j) 0 = (bs.getD j 0).extractLsb' 4 4 ∧
    (nibbles bs).getD (2 * j + 1) 0 = (bs.getD j 0).extractLsb' 0 4 := by
  obtain ⟨high, low⟩ := nibbles_getElem? bs j
  simp only [List.getD_eq_getElem?_getD, high, low]
  cases bs[j]? <;> exact ⟨rfl, rfl⟩

theorem highNibble_toNat (b : Byte) : (b.extractLsb' 4 4).toNat = b.toNat / 16 := by
  simp [Nat.shiftRight_eq_div_pow]
  omega

theorem lowNibble_toNat (b : Byte) : (b.extractLsb' 0 4).toNat = b.toNat % 16 := by
  simp

theorem nibblePair_toNat (hi lo : BitVec 4) : (hi ++ lo : Byte).toNat = 16 * hi.toNat + lo.toNat := by
  rw [BitVec.toNat_append, ← Nat.shiftLeft_add_eq_or_of_lt lo.isLt, Nat.shiftLeft_eq]
  ring

theorem nibblePair_eq_iff {hi lo : BitVec 4} {b : Byte} :
    hi ++ lo = b ↔ b.extractLsb' 4 4 = hi ∧ b.extractLsb' 0 4 = lo := by
  have hlo := lo.isLt
  simp only [← BitVec.toNat_inj, nibblePair_toNat, highNibble_toNat, lowNibble_toNat]
  omega

/-- Pairing nibbles into bytes undoes cutting bytes into nibbles. -/
theorem pairNibbles_eq_some_iff {ns : List (BitVec 4)} {bs : List Byte} : pairNibbles ns = some bs ↔ nibbles bs = ns := by
  induction ns using pairNibbles.induct generalizing bs with
  | case1 => cases bs <;> simp [pairNibbles]
  | case2 n => cases bs <;> simp [pairNibbles]
  | case3 hi lo rest ih =>
    rw [pairNibbles, Option.map_eq_some_iff]
    constructor
    · rintro ⟨bs', paired, rfl⟩
      obtain ⟨high, low⟩ := nibblePair_eq_iff.mp (Eq.refl (hi ++ lo))
      rw [nibbles_cons, high, low, ih.mp paired]
    · intro cutUp
      cases bs with
      | nil => cases cutUp
      | cons b bs =>
        obtain ⟨high, low, cutRest⟩ : b.extractLsb' 4 4 = hi ∧ b.extractLsb' 0 4 = lo ∧ nibbles bs = rest := by
          simpa using cutUp
        exact ⟨bs, ih.mpr cutRest, by rw [nibblePair_eq_iff.mpr ⟨high, low⟩]⟩

/-! ### Hexadecimal digits (45_digest.md R218, R221) -/

/-- A character that is a hexadecimal digit of either case (R221 line 3). -/
def IsHexDigit (ch : Byte) : Prop :=
  (0x30 ≤ ch.toNat ∧ ch.toNat ≤ 0x39) ∨ (0x61 ≤ ch.toNat ∧ ch.toNat ≤ 0x66) ∨ (0x41 ≤ ch.toNat ∧ ch.toNat ≤ 0x46)

/-- `val` of a hexadecimal digit, letters of either case counting 10 to 15 (R221 line 4). -/
def digitValue (ch : Byte) : Nat :=
  if ch.toNat ≤ 0x39 then ch.toNat - 0x30 else if ch.toNat ≤ 0x46 then ch.toNat - 0x41 + 10 else ch.toNat - 0x61 + 10

/-- A hexadecimal digit with a letter lowercased (R223). -/
def lowercase (ch : Byte) : Byte := if 0x41 ≤ ch.toNat ∧ ch.toNat ≤ 0x46 then ch + 0x20#8 else ch

theorem digitValue_lt {ch : Byte} (h : IsHexDigit ch) : digitValue ch < 16 := by
  unfold IsHexDigit at h
  unfold digitValue
  split_ifs <;> omega

theorem lowercase_toNat (ch : Byte) :
    (lowercase ch).toNat = if 0x41 ≤ ch.toNat ∧ ch.toNat ≤ 0x46 then ch.toNat + 0x20 else ch.toNat := by
  unfold lowercase
  split_ifs
  next upper =>
    rw [BitVec.toNat_add_of_lt (by rw [BitVec.toNat_ofNat]; omega)]
    rfl
  next => rfl

theorem hexDigit_toNat (n : BitVec 4) : (hexDigit n).toNat = if n.toNat < 10 then 0x30 + n.toNat else 0x57 + n.toNat := by
  have := n.isLt
  unfold hexDigit
  split_ifs <;> rw [BitVec.toNat_ofNat] <;> omega

theorem hexVal_of_digit {ch : Byte} (h : IsHexDigit ch) : hexVal ch = some (BitVec.ofNat 4 (digitValue ch)) := by
  obtain decimal | lower | upper := h
  · rw [hexVal, digitValue, if_pos decimal, if_pos decimal.2]
  · rw [hexVal, digitValue, if_neg (by omega), if_pos lower, if_neg (by omega), if_neg (by omega)]
  · rw [hexVal, digitValue, if_neg (by omega), if_neg (by omega), if_pos upper, if_neg (by omega), if_pos upper.2]

theorem isHexDigit_of_hexVal {ch : Byte} {n : BitVec 4} (h : hexVal ch = some n) : IsHexDigit ch := by
  by_contra hbad
  unfold IsHexDigit at hbad
  rw [hexVal, if_neg (by omega), if_neg (by omega), if_neg (by omega)] at h
  cases h

/-- The characters that have a value, and which value it is. -/
theorem hexVal_eq_some_iff {ch : Byte} {n : BitVec 4} : hexVal ch = some n ↔ IsHexDigit ch ∧ n.toNat = digitValue ch := by
  have value (digit : IsHexDigit ch) : hexVal ch = some n ↔ n.toNat = digitValue ch := by
    rw [hexVal_of_digit digit, Option.some.injEq, ← BitVec.toNat_inj, BitVec.toNat_ofNat,
      Nat.mod_eq_of_lt (digitValue_lt digit), eq_comm]
  exact ⟨fun h => ⟨isHexDigit_of_hexVal h, (value (isHexDigit_of_hexVal h)).mp h⟩, fun ⟨digit, h⟩ => (value digit).mpr h⟩

theorem hexVal_hexDigit (n : BitVec 4) : hexVal (hexDigit n) = some n := by
  have := n.isLt
  rw [hexVal_eq_some_iff, IsHexDigit, digitValue, hexDigit_toNat]
  split_ifs <;> omega

theorem hexDigit_of_hexVal {ch : Byte} {n : BitVec 4} (h : hexVal ch = some n) : hexDigit n = lowercase ch := by
  obtain ⟨digit, value⟩ := hexVal_eq_some_iff.mp h
  apply BitVec.eq_of_toNat_eq
  rw [hexDigit_toNat, lowercase_toNat, value]
  unfold IsHexDigit at digit
  unfold digitValue
  split_ifs <;> omega

/-- R217: the sixteen digits are 0123456789abcdef. -/
theorem hexDigit_getElem? (n : BitVec 4) :
    ("0123456789abcdef".toList.map fun ch => BitVec.ofNat 8 ch.toNat)[n.toNat]? = some (hexDigit n) := by
  revert n
  decide

/-! ### The text encoding (45_digest.md R217) -/

theorem encodeHex_eq (D : Digest) : encodeHex D = (nibbles (encodeBytes D)).map hexDigit := by
  rw [nibbles, List.map_flatMap]
  rfl

theorem encodeHex_length (D : Digest) : (encodeHex D).length = 64 := by
  rw [encodeHex_eq, List.length_map, nibbles_length, encodeBytes_length]

/-- Settles O55: the text is the digits of the nibbles of the bytes. -/
theorem encodeHexDigits : Obligations.EncodeHexDigits := by
  intro D
  refine ⟨encodeHex_length D, fun j hj => ?_⟩
  have byte := List.getElem?_eq_getElem ((encodeBytes_length D).symm ▸ hj)
  obtain ⟨high, low⟩ := nibbles_getElem? (encodeBytes D) j
  refine ⟨_, byte, ?_, ?_⟩
  · rw [encodeHex_eq, List.getElem?_map, high, byte, ← highNibble_toNat, hexDigit_getElem?]
    rfl
  · rw [encodeHex_eq, List.getElem?_map, low, byte, ← lowNibble_toNat, hexDigit_getElem?]
    rfl

/-! ### The prefix of a text (45_digest.md R221 line 1) -/

theorem stripPrefix_plain {t : List Byte} (hplain : ¬ ∃ rest, t = 0x30#8 :: 0x78#8 :: rest) : stripPrefix t = t := by
  unfold stripPrefix
  split
  next a b rest =>
    refine if_neg ?_
    rintro ⟨rfl, rfl⟩
    exact hplain ⟨rest, rfl⟩
  next => rfl

theorem stripPrefix_eq_iff {t h : List Byte} : stripPrefix t = h ↔
    t = 0x30#8 :: 0x78#8 :: h ∨ (t = h ∧ ¬ ∃ rest, t = 0x30#8 :: 0x78#8 :: rest) := by
  constructor
  · rintro rfl
    by_cases hprefix : ∃ rest, t = 0x30#8 :: 0x78#8 :: rest
    · obtain ⟨rest, rfl⟩ := hprefix
      exact .inl rfl
    · exact .inr ⟨(stripPrefix_plain hprefix).symm, hprefix⟩
  · rintro (rfl | ⟨rfl, hplain⟩)
    · rfl
    · exact stripPrefix_plain hplain

/-- R217: the encoder emits no prefix, since `x` is no digit. -/
theorem stripPrefix_encodeHex (D : Digest) : stripPrefix (encodeHex D) = encodeHex D := by
  apply stripPrefix_plain
  rintro ⟨rest, h⟩
  have spelled : 0x78#8 ∈ (nibbles (encodeBytes D)).map hexDigit := by
    rw [← encodeHex_eq, h]
    simp
  obtain ⟨n, -, hn⟩ := List.mem_map.mp spelled
  exact absurd (hn ▸ hexVal_hexDigit n) (by simp [hexVal])

/-! ### The bytes that a text spells (45_digest.md R221 lines 2 to 4) -/

theorem mapM_eq_some_iff_forall₂ {α β : Type} {f : α → Option β} {l : List α} {r : List β} :
    l.mapM f = some r ↔ List.Forall₂ (fun a b => f a = some b) l r := by
  induction l generalizing r with
  | nil => simp [eq_comm]
  | cons a l ih =>
    simp only [List.mapM_cons, Option.bind_eq_bind, Option.bind_eq_some_iff, List.forall₂_cons_left_iff, ih,
      Option.pure_def, Option.some.injEq, eq_comm (b := r), ← exists_and_left]

/-- A text spells the bytes whose nibbles are, one by one, the values of its characters. -/
theorem textBytes_eq_some_iff {t bs : List Byte} :
    textBytes t = some bs ↔ List.Forall₂ (fun ch n => hexVal ch = some n) (stripPrefix t) (nibbles bs) := by
  simp only [textBytes, Option.bind_eq_some_iff, mapM_eq_some_iff_forall₂, pairNibbles_eq_some_iff, exists_eq_right']

theorem length_of_textBytes {t bs : List Byte} (h : textBytes t = some bs) : (stripPrefix t).length = 2 * bs.length :=
  (textBytes_eq_some_iff.mp h).length_eq.trans (nibbles_length bs)

theorem isHexDigit_of_textBytes {t bs : List Byte} (h : textBytes t = some bs) : ∀ ch ∈ stripPrefix t, IsHexDigit ch := by
  intro ch hch
  obtain ⟨i, hi, rfl⟩ := List.mem_iff_getElem.mp hch
  obtain ⟨hlen, values⟩ := List.forall₂_iff_get.mp (textBytes_eq_some_iff.mp h)
  exact isHexDigit_of_hexVal (values i hi (hlen ▸ hi))

theorem textBytes_of_digits {t b : List Byte} (hlen : (stripPrefix t).length = 2 * b.length)
    (digits : ∀ ch ∈ stripPrefix t, IsHexDigit ch)
    (hb : ∀ j < b.length, (b.getD j 0).toNat =
      16 * digitValue ((stripPrefix t).getD (2 * j) 0) + digitValue ((stripPrefix t).getD (2 * j + 1) 0)) :
    textBytes t = some b := by
  have low (j : Nat) (hj : j < b.length) : digitValue ((stripPrefix t).getD (2 * j + 1) 0) < 16 := by
    rw [List.getD_eq_getElem _ 0 (by omega)]
    exact digitValue_lt (digits _ (List.getElem_mem _))
  refine textBytes_eq_some_iff.mpr (List.forall₂_iff_get.mpr ⟨hlen.trans (nibbles_length b).symm, fun i hi hi' => ?_⟩)
  refine hexVal_eq_some_iff.mpr ⟨digits _ (List.getElem_mem hi), ?_⟩
  rw [List.get_eq_getElem, List.get_eq_getElem, ← List.getD_eq_getElem _ 0 hi, ← List.getD_eq_getElem _ 0 hi']
  obtain ⟨j, hij⟩ := i.even_or_odd'
  obtain ⟨highNibble, lowNibble⟩ := nibbles_getD b j
  have hj : j < b.length := by omega
  have byte := hb j hj
  have := low j hj
  obtain rfl | rfl := hij
  · rw [highNibble, highNibble_toNat]
    omega
  · rw [lowNibble, lowNibble_toNat]
    omega

theorem textBytes_encodeHex (D : Digest) : textBytes (encodeHex D) = some (encodeBytes D) := by
  rw [textBytes_eq_some_iff, stripPrefix_encodeHex, encodeHex_eq, List.forall₂_map_left_iff]
  exact List.forall₂_same.mpr fun n _ => hexVal_hexDigit n

theorem map_hexDigit_of_textBytes {t bs : List Byte} (h : textBytes t = some bs) :
    (nibbles bs).map hexDigit = (stripPrefix t).map lowercase := by
  have same := (textBytes_eq_some_iff.mp h).imp fun _ _ => hexDigit_of_hexVal
  rw [← List.forall₂_eq_eq_eq, List.forall₂_map_left_iff, List.forall₂_map_right_iff]
  exact same.flip

/-! ### The text decoder (45_digest.md R221, R223) -/

theorem decodeHex_malformed {t : List Byte} (h : textBytes t = none) : decodeHex t = .error .text := by rw [decodeHex, h]

theorem decodeHex_spelled {t b : List Byte} (h : textBytes t = some b) : decodeHex t = decodeBytes b := by rw [decodeHex, h]

/-- Settles O56: an odd number of digits or a bad character spells no bytes; else the bytes that pair up are those spelled. -/
theorem decodeHexByDigits : Obligations.DecodeHexByDigits := by
  intro t h stripped digit val
  obtain rfl := stripPrefix_eq_iff.mpr stripped
  refine ⟨fun malformed => decodeHex_malformed ?_, fun heven digits b hlen hb => ?_⟩
  · refine Option.eq_none_iff_forall_ne_some.mpr fun bs spelled => ?_
    obtain hodd | ⟨ch, hch, hbad⟩ := malformed
    · have := length_of_textBytes spelled
      omega
    · exact hbad (isHexDigit_of_textBytes spelled ch hch)
  · exact decodeHex_spelled (textBytes_of_digits (by omega) digits hb)

/-- A text decodes to a digest exactly when it spells the encoding of that digest. -/
theorem decodeHex_eq_ok_iff {t : List Byte} {D : Digest} :
    decodeHex t = .ok D ↔ validDigest D = true ∧ textBytes t = some (encodeBytes D) := by
  cases spelled : textBytes t with
  | none => simp [decodeHex_malformed spelled]
  | some b => rw [decodeHex_spelled spelled, decodeBytes_eq_ok_iff, Option.some.injEq, eq_comm (a := b)]

/-- Settles O57: the text of a digest spells its bytes, and the digits of what a text spells are its own, lowercased. -/
theorem textRoundTrip : Obligations.TextRoundTrip := by
  refine ⟨fun D hD => decodeHex_eq_ok_iff.mpr ⟨hD, textBytes_encodeHex D⟩, fun t D h => ?_⟩
  obtain ⟨-, spelled⟩ := decodeHex_eq_ok_iff.mp h
  exact ⟨stripPrefix t, stripPrefix_eq_iff.mp rfl, (encodeHex_eq D).trans (map_hexDigit_of_textBytes spelled)⟩

end Sys2Proof.Machine

namespace Sys2Proof.Machine

/-! ### The commands ENCB, ENCH, DECB and DECH (45_digest.md R212, R215, R218, R222) -/

theorem returnOkUntouched_eq (out : Payload) (s : State) :
    returnOkUntouched out s = .next { s with resp := some ⟨0#32, out⟩ } := by
  rw [returnOkUntouched, statusWord_okCode]
  rfl

/-- A valid digest passes every check of ENCB and ENCH. -/
theorem encoder_checks_met {D : Digest} {s : State} (hrun : s.FLT = false) (hD : validDigest D = true)
    (run : State → Result) : accept s (requireWidth 4 D.toList (requireLimbs D.toList run)) = run s := by
  rw [accept_running hrun, requireWidth_met D.length_toList, requireLimbs_met ((validDigest_iff D).mp hD)]

/-- Settles O58: the operand passes the checks, and the answer is all that is written. -/
theorem encodersRun : Obligations.EncodersRun := by
  intro D s hrun hD
  constructor
  · rw [exec_encb, encoder_checks_met hrun hD, digestAt_toList, returnOkUntouched_eq]
  · rw [exec_ench, encoder_checks_met hrun hD, digestAt_toList, returnOkUntouched_eq]

section decoder
variable {r : Except TypedError Digest} {s : State}

theorem returnDecoded_ok {D : Digest} (hrun : s.FLT = false) (h : r = .ok D) :
    accept s (returnDecoded r) = .next { s with resp := some ⟨0x00000000#32, .words [D[0], D[1], D[2], D[3]]⟩ } := by
  rw [accept_running hrun, h, returnDecoded, returnOkUntouched_eq, digest_toList]

theorem returnDecoded_error {e : TypedError} (hrun : s.FLT = false) (h : r = .error e) :
    accept s (returnDecoded r) = .next { s with resp := some ⟨e.code.setWidth 32, .words []⟩ } := by
  rw [accept_running hrun, h, returnDecoded, raiseError_eq]

end decoder

/-- Settles O59: DECB and DECH end alike, each on the result of its own decoder. -/
theorem decodersRun : Obligations.DecodersRun := by
  intro pay D s hrun
  rw [exec_decb, exec_dech]
  exact ⟨returnDecoded_ok hrun, returnDecoded_ok hrun⟩

/-- Settles O60: either decoder's failure is raised as the typed error of its code. -/
theorem decodersReportFailures : Obligations.DecodersReportFailures := by
  intro pay s hrun t
  rw [exec_decb, exec_dech]
  exact ⟨returnDecoded_error hrun, returnDecoded_error hrun, returnDecoded_error hrun, returnDecoded_error hrun,
    returnDecoded_error hrun⟩

end Sys2Proof.Machine

namespace Sys2Proof.Machine

/-! ### Several instances (60_exceptions.md R262) -/

/-- What a step of instance `k` did: nothing beyond the list, or that instance's own step and no other change. -/
theorem stepInstance_next_cases {k : Nat} {m m' : List State} (h : stepInstance k m = .next m') :
    (m[k]? = none ∧ m' = m) ∨ (∃ s t, m[k]? = some s ∧ step s = .next t ∧ m' = m.set k t) := by
  unfold stepInstance at h
  cases hk : m[k]? with
  | none =>
    simp only [hk] at h
    exact .inl ⟨rfl, (Host.Outcome.next.inj h).symm⟩
  | some s =>
    cases hstep : step s with
    | next t =>
      simp only [hk, hstep] at h
      exact .inr ⟨s, t, rfl, hstep, (Host.Outcome.next.inj h).symm⟩
    | fault f => cases f
    | refused r => simp [hk, hstep] at h

/-- Settles O11: the list changes at the stepping index alone, and there it holds what that instance's step gave. -/
theorem instancesAreIndependent : Obligations.InstancesAreIndependent := by
  intro k m m' h
  obtain ⟨hk, rfl⟩ | ⟨s, t, hk, hstep, rfl⟩ := stepInstance_next_cases h
  · exact ⟨rfl, fun _ _ => rfl, fun s hs => by cases hk.symm.trans hs⟩
  · refine ⟨List.length_set, fun j hj => List.getElem?_set_ne hj.symm, fun s' hs' => ?_⟩
    obtain rfl := Option.some.inj (hk.symm.trans hs')
    obtain ⟨inList, -⟩ := List.getElem?_eq_some_iff.mp hk
    exact ⟨t, hstep, List.getElem?_set_self inList⟩

end Sys2Proof.Machine

namespace Sys2Proof.Machine

/-! ### The idle block, the halted block and the width check (60_exceptions.md R243, R249, R251, R260) -/

/-- Settles O6: delivering an empty inbox leaves it empty, so only the response is withdrawn (the idle step is the model's,
log 2). -/
theorem idleBlockWaits : Obligations.IdleBlockWaits := by
  intro s hs
  rw [step_nothing hs, State.deliver, ← hs]

/-- R251 step 1: every command is the check of the latch, followed by a meaning of its own. -/
theorem exec_checks_latch (i : Instr) : ∃ run : State → Result, ∀ s, exec i s = accept s run := by
  cases i with
  | perm pay => exact ⟨_, exec_perm pay⟩
  | sponge n pay => exact ⟨_, exec_sponge n pay⟩
  | hashn pay => exact ⟨_, exec_hashn pay⟩
  | hashp pay => exact ⟨_, exec_hashp pay⟩
  | comp pay => exact ⟨_, exec_comp pay⟩
  | leaf pay => exact ⟨_, exec_leaf pay⟩
  | zeros levels pay => exact ⟨_, exec_zeros levels pay⟩
  | encb pay => exact ⟨_, exec_encb pay⟩
  | decb pay => exact ⟨_, exec_decb pay⟩
  | ench pay => exact ⟨_, exec_ench pay⟩
  | dech pay => exact ⟨_, exec_dech pay⟩

theorem exec_halted {s : State} (h : s.FLT = true) (i : Instr) : exec i s = .next s.refuseHalted := by
  obtain ⟨run, hrun⟩ := exec_checks_latch i
  rw [hrun, accept_halted h]

/-- R249: a halted block's step is the same for a request that is a command and for one that is none. -/
theorem step_halted {s : State} {r : Request} {rest : List HostEvent} (hs : s.inbox = .request r :: rest)
    (h : s.FLT = true) : step s = .next (s.deliver rest).refuseHalted := by
  have latched : (s.deliver rest).FLT = true := h
  cases hd : decode r with
  | ok i => rw [step_command hs hd, exec_halted latched]
  | error e => rw [step_rejected hs hd, rejectRequest, accept_halted latched]

/-- Settles O14: whatever stands behind the check of the latch is not run. -/
theorem haltedBlockExecutesNothing : Obligations.HaltedBlockExecutesNothing :=
  fun i s h => ⟨⟨statusWord s.FCAUSE haltedCode, emptyPayload⟩, exec_halted h i, statusWord_haltedCode s.FCAUSE, rfl⟩

/-- Settles O13: the refusal of the delivered state writes the response alone. -/
theorem haltedBlockRefusesEveryRequest : Obligations.HaltedBlockRefusesEveryRequest :=
  fun s _ _ hs h => ⟨⟨statusWord s.FCAUSE haltedCode, emptyPayload⟩, step_halted hs h, statusWord_haltedCode s.FCAUSE, rfl⟩

/-- R251 step 4: behind the latch, the width check faults before anything that follows it. -/
theorem accept_requireWidth_failed {s : State} (hrun : s.FLT = false) {k : Nat} {pay : List Word} (h : pay.length ≠ k)
    (run : State → Result) : accept s (requireWidth k pay run) =
      .next { s with FLT := true, FCAUSE := 0x82#8, resp := some ⟨0x00000082#32, .words []⟩ } := by
  rw [accept_running hrun, requireWidth_failed h, raiseFault_eq]
  rfl

/-- Settles O15: the six commands share the width check, each with its own width. -/
theorem wrongWidthFaults : Obligations.WrongWidthFaults := by
  intro pay n s hrun t
  rw [exec_perm, exec_comp, exec_leaf, exec_encb, exec_ench, exec_zeros]
  exact ⟨fun h => accept_requireWidth_failed hrun h _,
    fun h => ⟨accept_requireWidth_failed hrun h _, accept_requireWidth_failed hrun h _⟩,
    fun h => ⟨accept_requireWidth_failed hrun h _, accept_requireWidth_failed hrun h _⟩,
    fun h => accept_requireWidth_failed hrun h _⟩

end Sys2Proof.Machine

namespace Sys2Proof.Machine

/-! ### Every step ends, and a reset clears the latch (60_exceptions.md R253, 70_reset_and_hazards.md R280, R291) -/

/-- Settles O9: waiting, reset and each of the endings of a command are next states. -/
theorem everyStepCompletes : Obligations.EveryStepCompletes := by
  refine ⟨fun s => ?_, fun i s => ?_⟩
  · obtain ⟨-, waits⟩ | ⟨rest, -, resets⟩ | ⟨r, rest, -, t, ends, -⟩ := step_cases s
    · exact ⟨_, waits⟩
    · exact ⟨_, resets⟩
    · exact ⟨t, ends⟩
  · obtain ⟨t, ends, -⟩ := execUnder_ends Config.installed i s
    exact ⟨t, (exec_eq_execUnder i s).trans ends⟩

/-- Settles O7: whatever the state, the registers are those of reset (the inbox and the response: logs 2 and 9). -/
theorem resetClearsTheLatch : Obligations.ResetClearsTheLatch := by
  intro s rest hs
  exact ⟨(s.deliver rest).takeReset, step_reset hs, takeReset_FLT _, takeReset_FCAUSE _, rfl, takeReset_inbox _,
    takeReset_resp _⟩

/-! ### A counted run is the run itself, with its number of schedules (70_reset_and_hazards.md R291) -/

/-- A result that leaves scratch registers, with a number of calls beside them. -/
def withCalls {α : Type} (r : α × Datapath) (calls : Nat) : α × Counted := (r.1, ⟨r.2, calls⟩)

/-- A loop that counts one call in each round ends as the loop without the counter does, `n` calls later. -/
theorem loop_counted {α β : Type} (count : α → Nat → β) {f : Nat → α → α} {g : Nat → β → β}
    (round : ∀ r a k, g r (count a k) = count (f r a) (k + 1)) (n : Nat) (a : α) (k : Nat) :
    loop n g (count a k) = count (loop n f a) (k + n) := by
  induction n with
  | zero => rfl
  | succ n ih => rw [loop, loop, ih, round, Nat.add_assoc]

section
variable (c : Config) (d : Datapath) (k : Nat)

theorem counted_work_mk (f : Datapath → Datapath) : (Counted.mk d k).work f = ⟨f d, k⟩ := rfl

theorem counted_run_mk : (Counted.mk d k).run c = ⟨runSchedule c d, k + 1⟩ := rfl

theorem countedBlock_eq (x : List Word) (off cnt : Nat) :
    countedBlock c x off cnt ⟨d, k⟩ = ⟨absorbBlock c x off cnt d, k + 1⟩ := rfl

theorem countedCompress_eq (A B : Digest) : countedCompress c A B ⟨d, k⟩ = ⟨compressRun c A B d, k + 1⟩ := rfl

theorem countedLeaf_eq (A B : Digest) : countedLeaf c A B ⟨d, k⟩ = ⟨leafRun c A B d, k + 2⟩ := rfl

/-- R163, R164: one call for each full block and one for the remainder, where there is one. -/
theorem countedAbsorb_eq (x : List Word) : countedAbsorb c x ⟨d, k⟩ = ⟨absorb c x d, k + (x.length + 7) / 8⟩ := by
  have full : loop (x.length / 8) (fun b => countedBlock c x (8 * b) 8) ⟨absorbInit d, k⟩ =
      ⟨absorbFull c x (absorbInit d), k + x.length / 8⟩ :=
    loop_counted Counted.mk (fun b d k => countedBlock_eq c d k x (8 * b) 8) _ _ _
  simp only [countedAbsorb, counted_work_mk, full, countedBlock_eq, absorb, absorbRemainder]
  split
  next whole =>
    have blocks : (x.length + 7) / 8 = x.length / 8 := by omega
    rw [blocks]
  next remainder =>
    have blocks : (x.length + 7) / 8 = x.length / 8 + 1 := by omega
    rw [blocks, Nat.add_assoc]

theorem countedGroups_last (g : Nat) {n : Nat} (h : n ≤ 8) :
    countedGroups c (g + 1) n ⟨d, k⟩ = withCalls (squeezeGroups c (g + 1) n d) k := by
  simp only [countedGroups, squeezeGroups, if_pos h, counted_work_mk, withCalls]

/-- A group that another follows: one call stands between them. -/
theorem countedGroups_more (g : Nat) {n : Nat} (h : 8 < n) :
    countedGroups c (g + 1) n ⟨d, k⟩ =
      let rest := countedGroups c g (n - 8) ⟨runSchedule c { d with PH := .squeeze, OCNT := d.OCNT + 8 }, k + 1⟩
      (leadingLanes 8 d.S ++ rest.1, rest.2) := by
  simp only [countedGroups, if_neg h.not_ge, Nat.min_eq_left h.le, counted_work_mk, counted_run_mk]

/-- R167: ⌈n / 8⌉ groups with one call between each two of them. -/
theorem countedGroups_eq {g n : Nat} (hn : 0 < n) (hg : n ≤ 8 * g) :
    countedGroups c g n ⟨d, k⟩ = withCalls (squeezeGroups c g n d) (k + ((n + 7) / 8 - 1)) := by
  induction g generalizing n d k with
  | zero => omega
  | succ g ih =>
    obtain hlast | hmore := le_or_gt n 8
    · have calls : k + ((n + 7) / 8 - 1) = k := by omega
      rw [countedGroups_last c d k g hlast, calls]
    · have calls : k + 1 + ((n - 8 + 7) / 8 - 1) = k + ((n + 7) / 8 - 1) := by omega
      rw [countedGroups_more c d k g hmore, squeezeGroups_more c g hmore, ih _ _ (by omega) (by omega), calls]
      rfl

theorem countedSqueeze_eq (n : ℕ+) :
    countedSqueeze c n ⟨d, k⟩ = withCalls (squeeze c n d) (k + (((n : Nat) + 7) / 8 - 1)) :=
  countedGroups_eq c _ k n.pos (by omega)

theorem countedChainStep_eq (levels r : Nat) (acc : List Digest × Datapath) :
    countedChainStep c levels r (withCalls acc k) = withCalls (chainStep c levels r acc) (k + 1) := rfl

/-- R198: one call for each level above the leaves. -/
theorem countedChain_eq (levels : Nat) :
    countedChain c levels ⟨d, k⟩ = withCalls (chainRun c levels d) (k + (levels - 1)) :=
  loop_counted withCalls (fun r acc k => countedChainStep_eq c k levels r acc) (levels - 1)
    ([zeroDigest], { d with LVL := levels - 1 }) k

end

/-- R183: the zeros fill the leading 1 and the input up to the next multiple of 12. -/
theorem pad_length_eq (x : List Word) : (pad x).length = 12 * ((x.length + 1 + 11) / 12) + 1 := by
  have short := padZeros_lt x.length
  have aligned := padZeros_aligns x.length
  rw [pad_length]
  omega

/-! ### What each command that permutes does on a running block, under any configuration -/

section
variable (c : Config) {s : State} (hrun : s.FLT = false)
include hrun

theorem permOn_unloads {pay : List Word} (hpay : pay.length = 12) :
    permOn c pay s = unload 12 (runSchedule c (loadw pay 0 12 { s.dp with PH := .load })) s := by
  rw [permOn, accept_running hrun, requireWidth_met hpay]

theorem spongeOn_returns (n : ℕ+) (pay : List Word) :
    spongeOn c n pay s =
      returnOk (.words (squeeze c n (absorb c pay s.dp)).1) (squeeze c n (absorb c pay s.dp)).2 s := by
  rw [spongeOn, accept_running hrun, if_neg n.ne_zero]

theorem hashnOn_unloads (pay : List Word) : hashnOn c pay s = unload 4 (absorb c pay s.dp) s := accept_running hrun _

theorem hashpOn_unloads (pay : List Word) : hashpOn c pay s = unload 4 (absorb c (pad (pay.map fred)) s.dp) s :=
  accept_running hrun _

theorem zerosOn_returns (levels : ℕ+) :
    zerosOn c levels [] s =
      returnOk (.words (digestWords (chainRun c levels s.dp).1)) { (chainRun c levels s.dp).2 with OCNT := 4 * levels } s := by
  rw [zerosOn, accept_running hrun, requireWidth_met List.length_nil, if_neg levels.ne_zero]

end

/-- Settles O45: each counted run is the command's own run of its datapath with the number of schedules in it (the counter is
no part of the state, log 10). -/
theorem permutationCallCounts : Obligations.PermutationCallCounts := by
  intro c pay A B n s hrun
  have n_pos := n.pos
  simp only [counted_run_mk, countedAbsorb_eq, countedSqueeze_eq, countedCompress_eq, countedLeaf_eq, countedChain_eq,
    pad_length_eq, List.length_map, Nat.zero_add, and_true, true_and]
  refine ⟨permOn_unloads c hrun, ⟨spongeOn_returns c hrun n pay, ?_⟩,
    hashnOn_unloads c hrun pay, hashpOn_unloads c hrun pay, fun hA hB => ⟨?_, ?_⟩, ⟨zerosOn_returns c hrun n, ?_⟩⟩
  · dsimp only [withCalls]
    omega
  · exact withTwoDigests_valid hrun hA hB fun A B d => unload 4 (compressRun c A B d)
  · exact withTwoDigests_valid hrun hA hB fun A B d => unload 4 (leafRun c A B d)
  · exact Nat.sub_add_cancel n_pos

end Sys2Proof.Machine
